-- ==== Sys2Proof/Word.lean ====
section
/-! DEFINITION. The words of the machine: one byte, a data address and a code address. -/

namespace Sys2Proof

/-- A byte: a data cell, a register, a byte of ROM space (R5, R6). -/
abbrev Byte := BitVec 8

/-- A data address, 0x000..0x1FF (R5, R50). -/
abbrev DataAddr := BitVec 9

/-- A physical data cell, which the parameter BankMap gives for a data address (R7, R51). Cells 0x0000 to
0x01FF are those of the flat data space; the others exist only for a BankMap that names them. -/
abbrev PhysCell := BitVec 16

/-- A code address, which is also an address of ROM space (R5, R56). -/
abbrev CodeAddr := BitVec 16

end Sys2Proof
end

