-- ==== Sys2Proof/Config.lean ====
section
/-! DEFINITION. The named parameters of spec/00_scope.md R7, which the machine takes as arguments, with the
defaults R7 gives them; and the free value DivByZero, a constant without a body, of which nothing can be
proved but its type. Rom, DeviceCells and IntSources are fields of State, HaltSet an argument of
Machine/Safety. -/

namespace Sys2Proof

/-- The access kinds of BankMap (R7): R51 lists the operations through which every data access goes. -/
inductive Access where
  /-- MemRead (R52) -/
  | read
  /-- MemWrite (R53) -/
  | write
  /-- the write of Push (R58) -/
  | push
  /-- the read of Pop (R59) -/
  | pop
  /-- the read of x[i] (R28) -/
  | pointer
  deriving DecidableEq, Repr

/-- The named parameters of R7 that are no other field of State, each at R7's default. The three that are
maps are plain data: a table of the arguments at which the map differs from its default, so that the empty
table is the default and every map is some table (log 15). -/
structure Params where
  /-- ADDR_ACC: the cell of acc (R27, D2) -/
  addrAcc : DataAddr := 0x100#9
  /-- ADDR_PSW: the cell of psw (R27, D2) -/
  addrPsw : DataAddr := 0x101#9
  /-- ADDR_B: the cell of b (R27, D2) -/
  addrB : DataAddr := 0x102#9
  /-- ADDR_C: the cell of c (R27, D2) -/
  addrC : DataAddr := 0x103#9
  /-- ADDR_TRL: the cell of trl (R27, D2) -/
  addrTrl : DataAddr := 0x104#9
  /-- ADDR_TRH: the cell of trh (R27, D2) -/
  addrTrh : DataAddr := 0x105#9
  /-- ADDR_SP: the cell of sp (R27, D2) -/
  addrSp : DataAddr := 0x106#9
  /-- BIT_CY: the bit of psw that is cy (R24, D3) -/
  bitCy : BitVec 3 := 7#3
  /-- BIT_AC: the bit of psw that is ac (R24, D3) -/
  bitAc : BitVec 3 := 6#3
  /-- BIT_OV: the bit of psw that is ov (R24, D3) -/
  bitOv : BitVec 3 := 2#3
  /-- BIT_IRBK1: the high bit of the pointer bank in psw (R24, R28, D9) -/
  bitIrbk1 : BitVec 3 := 4#3
  /-- BIT_IRBK0: the low bit of the pointer bank in psw (R24, R28, D9) -/
  bitIrbk0 : BitVec 3 := 3#3
  /-- PtrCell, where it is not its default: the cell that holds Ri when psw is the byte (R28, D9) -/
  ptrCells : List ((BitVec 2 × Byte) × DataAddr) := []
  /-- PtrBase, where it is not its default: the base added to Ri (R55, D9) -/
  ptrBases : List (BitVec 2 × DataAddr) := []
  /-- BankMap, where it is not the identity: the physical cell of an address under a psw for an access kind
  (R51, D11) -/
  bankMap : List ((DataAddr × Byte × Access) × PhysCell) := []
  /-- RESET_PC: the address of the first instruction after reset (R311, D23) -/
  resetPc : CodeAddr := 0x0000#16
  deriving DecidableEq, Repr

/-- The cells of the seven named registers. -/
def Params.registerCells (p : Params) : List DataAddr :=
  [p.addrAcc, p.addrPsw, p.addrB, p.addrC, p.addrTrl, p.addrTrh, p.addrSp]

/-- The bits of the three flags. -/
def Params.flagBits (p : Params) : List (BitVec 3) := [p.bitCy, p.bitAc, p.bitOv]

/-- The parameters are laid out as the spec's machine has them: the register cells pairwise distinct and the
flag bits pairwise distinct (R7), no register cell among the stack's 256 (R58), the data space flat (R51).
Nothing is said of PtrCell, PtrBase, RESET_PC or the pointer bank bits. -/
def Params.laidOut (p : Params) : Bool :=
  decide p.registerCells.Nodup && p.registerCells.all (fun a => decide (256 ≤ a.toNat)) &&
    decide p.flagBits.Nodup && decide (p.bankMap = [])

/-- What div leaves when the divisor is zero, as R7 types the parameter DivByZero: acc, c, b and ov.
cy and ac are not in it: R127 states them whatever the parameter is. -/
structure DivByZeroResult where
  acc : Byte
  c : Byte
  b : Byte
  ov : Bool
  deriving DecidableEq, Repr, Inhabited

/-- FREE VALUE (log 7): the parameter DivByZero of R7, a function of the old acc and c. The source is
silent on a zero divisor (R127, D15, U2). DESIGN CHOICE, safe: every statement holds for every such
function. -/
opaque Config.divByZero : Byte → Byte → DivByZeroResult

end Sys2Proof
end

