-- ==== Sys2Proof/Machine/State.lean ====
section
/-! DEFINITION. The machine's state as plain data, the reasons a step can stop, and the state after reset
(spec/10_state.md, spec/70_reset_and_hazards.md). -/

namespace Sys2Proof.Machine

/-- An interrupt source of the parameter IntSources (R284): its name, as a number, and the ROM address of
its handler. -/
structure IntSource where
  name : Nat
  vector : CodeAddr
  deriving DecidableEq, Repr

/-- The state of the machine (R20). The registers acc, psw, b, c, trl, trh, sp and R0..R3 are no fields of
their own: each IS one cell of the data space (R20, R27, R28), read and written by the accessors of
Machine/Ops.lean. The last five fields are parameters and inputs of a run (R7), held here as data so that
every statement ranges over them; no instruction changes one (R35). -/
structure State where
  /-- The address of the first byte of the next instruction (R30). -/
  pc : CodeAddr
  /-- The data space, 512 cells (R50): (cell, byte) pairs in the form Memory.wf says. A BankMap that is not
  the identity may name further cells (R51). -/
  data : List Host.Cell
  /-- Interrupt handling is held off (R34). -/
  intHold : Bool
  /-- ROM space, 65536 bytes (R56), in the same form. No instruction writes it (R57; log 3). -/
  rom : List Host.Cell
  /-- DeviceCells: the data cells whose access is refused (R7, R52, R53; log 4). -/
  deviceCells : List DataAddr
  /-- IntSources: the interrupt sources (R284; log 6). -/
  intSources : List IntSource
  /-- What is left of the interrupt agent's schedule: one entry for each boundary with int_hold = 0, none
  where it requests nothing; no entry left means no request ever again (R284, R285, R288; log 6). -/
  requests : List (Option IntSource)
  /-- The other named parameters (R7; log 11, log 15). -/
  params : Params
  deriving DecidableEq, Repr

/-- The machine has no synchronous exception and no error condition (R280, R281), so nothing faults: the
type has no constructor. -/
inductive Fault where
  deriving DecidableEq, Repr

/-- Why the model gives a step no meaning: the spec's `refuse` (R282). A refused step writes nothing. -/
inductive Refusal where
  /-- An instruction without a meaning yet; raised by exec's arms only. No arm raises it. Safe. -/
  | notModelled (mnemonic : String)
  /-- An access to a cell in DeviceCells, whose behaviour the spec does not give (R52, R53, R54); raised by
  memRead and memWrite. Safe: the real access goes on, and nothing can be proved of it here. -/
  | deviceCell (addr : DataAddr)
  /-- push of the sp cell, d9 = ADDR_SP, before it does anything: whether the operand is read before or after
  sp is incremented the source does not settle, and the spec refuses it (R184, R282, D18). Safe. -/
  | pushOfSpCell
  /-- pop into the sp cell, d9 = ADDR_SP, before it does anything: whether the decrement survives the write
  the source does not settle, and the spec refuses it (R185, R282, D18). Safe. -/
  | popIntoSpCell
  /-- ldf: the source names no address, destination, width or flag effect (R187, C9). Safe. -/
  | flashLoadUnspecified
  /-- stf: the source names no value, address, condition or flag effect (R188). Safe. -/
  | flashStoreUnspecified
  deriving DecidableEq, Repr

/-- The state after reset with the parameters p (R36, R310): pc at RESET_PC, int_hold 0. The spec leaves
every data cell, so every register, unspecified: they read 0x00 here (DESIGN CHOICE, unsafe, log 1 and
log 2). ROM space holds no program yet (log 3), and there are no device cells, no interrupt sources and no
requests, the defaults of R7. -/
def State.resetWith (p : Params) : State where
  pc := p.resetPc
  data := []
  intHold := false
  rom := []
  deviceCells := []
  intSources := []
  requests := []
  params := p

/-- The state after reset with every parameter at R7's default. -/
def State.reset : State := State.resetWith {}

end Sys2Proof.Machine
end

