-- ==== Sys2Proof/Machine/Ops.lean ====
section
/-! DEFINITION. The named operations over memory, registers, flags, stack and program counter
(spec/00_scope.md R12), interrupt entry and the return from it. An operation that the spec may refuse
answers an Outcome; `andThen` runs the next one on what it answers. -/

namespace Sys2Proof.Machine

/-! Byte memories: a list of (address, byte) with rising addresses and no entry equal to what an unlisted
address reads as. -/

/-- What an address that is not listed reads as: 0x00. For ROM space the convention of
spec/95_test_vectors.md part 3; for the data space DESIGN CHOICE, unsafe (log 1, log 2). -/
def Memory.unlisted : Byte := 0x00#8

/-- The byte at an address. -/
def Memory.read : List Host.Cell → Nat → Byte
  | [], _ => Memory.unlisted
  | (k, v) :: rest, a => if k = a then v else Memory.read rest a

/-- The memory without an entry for the address. -/
def Memory.erase : List Host.Cell → Nat → List Host.Cell
  | [], _ => []
  | (k, v) :: rest, a => if k = a then Memory.erase rest a else (k, v) :: Memory.erase rest a

/-- The memory with the entry (a, v) in its place. -/
def Memory.insert : List Host.Cell → Nat → Byte → List Host.Cell
  | [], a, v => [(a, v)]
  | (k, w) :: rest, a, v =>
    if a < k then (a, v) :: (k, w) :: rest
    else if a = k then (a, v) :: rest
    else (k, w) :: Memory.insert rest a v

/-- The memory with byte v at address a, in the canonical form. -/
def Memory.write (m : List Host.Cell) (a : Nat) (v : Byte) : List Host.Cell :=
  if v = Memory.unlisted then Memory.erase m a else Memory.insert m a v

/-- The canonical form over the addresses below `size`. -/
def Memory.wf (size : Nat) : List Host.Cell → Bool
  | [] => true
  | (k, v) :: rest =>
    decide (k < size) && decide (v ≠ Memory.unlisted) && rest.all (fun e => decide (k < e.1)) && Memory.wf size rest

/-- How many physical data cells there are: the 512 of R50 where the data space is flat (R51), and where
BankMap is not the identity all that it can name. -/
def State.dataSize (s : State) : Nat := if s.params.bankMap = [] then 512 else 65536

/-- Both memories of a state are in the canonical form: the data cells (R50, R51), 65536 ROM bytes (R56). -/
def State.wf (s : State) : Bool := Memory.wf s.dataSize s.data && Memory.wf 65536 s.rom

/-- The parameters of the state are laid out as the spec's machine has them. -/
def State.laidOut (s : State) : Bool := s.params.laidOut

/-! The data space. A register IS its cell (R27); an access by address goes through BankMap (R51) -/

/-- The content of a physical cell. -/
def State.phys (s : State) (p : PhysCell) : Byte := Memory.read s.data p.toNat

/-- The state with v in a physical cell and in no other. -/
def State.setPhys (s : State) (p : PhysCell) (v : Byte) : State :=
  { s with data := Memory.write s.data p.toNat v }

/-- The content of the cell a: the physical cell of that number, which is the one that the flat data space
has at address a (R51). -/
def State.cell (s : State) (a : DataAddr) : Byte := s.phys (a.setWidth 16)

/-- The state with v in the cell a and in no other (R53). -/
def State.setCell (s : State) (a : DataAddr) (v : Byte) : State := s.setPhys (a.setWidth 16) v

/-- acc (R21). -/
def State.acc (s : State) : Byte := s.cell s.params.addrAcc
/-- psw (R24). -/
def State.psw (s : State) : Byte := s.cell s.params.addrPsw
/-- b (R22). -/
def State.b (s : State) : Byte := s.cell s.params.addrB
/-- c (R23). -/
def State.c (s : State) : Byte := s.cell s.params.addrC
/-- trl (R26). -/
def State.trl (s : State) : Byte := s.cell s.params.addrTrl
/-- trh (R26). -/
def State.trh (s : State) : Byte := s.cell s.params.addrTrh
/-- sp (R25). -/
def State.sp (s : State) : Byte := s.cell s.params.addrSp

/-- tr = trh : trl (R26). -/
def State.tr (s : State) : BitVec 16 := s.trh ++ s.trl

/-- acc <- v. -/
def State.setAcc (s : State) (v : Byte) : State := s.setCell s.params.addrAcc v
/-- psw <- v. -/
def State.setPsw (s : State) (v : Byte) : State := s.setCell s.params.addrPsw v
/-- b <- v. -/
def State.setB (s : State) (v : Byte) : State := s.setCell s.params.addrB v
/-- c <- v. -/
def State.setC (s : State) (v : Byte) : State := s.setCell s.params.addrC v
/-- sp <- v. -/
def State.setSp (s : State) (v : Byte) : State := s.setCell s.params.addrSp v

/-! Flags (R24) -/

/-- The byte with bit n set to v and its other seven bits as they are. -/
def setBit (x : Byte) (n : Nat) (v : Bool) : Byte :=
  if v then x ||| (1#8 <<< n) else x &&& ~~~(1#8 <<< n)

/-- cy = psw[BIT_CY]. -/
def State.cy (s : State) : Bool := s.psw.getLsbD s.params.bitCy.toNat
/-- ac = psw[BIT_AC]. -/
def State.ac (s : State) : Bool := s.psw.getLsbD s.params.bitAc.toNat
/-- ov = psw[BIT_OV]. -/
def State.ov (s : State) : Bool := s.psw.getLsbD s.params.bitOv.toNat

/-- cy <- v: that bit of the psw cell and no other (R24). -/
def State.setCy (s : State) (v : Bool) : State := s.setPsw (setBit s.psw s.params.bitCy.toNat v)
/-- ac <- v. -/
def State.setAc (s : State) (v : Bool) : State := s.setPsw (setBit s.psw s.params.bitAc.toNat v)
/-- ov <- v. -/
def State.setOv (s : State) (v : Bool) : State := s.setPsw (setBit s.psw s.params.bitOv.toNat v)

/-! The program counter (R30, R31) -/

/-- next of an instruction of len bytes: (pc + len) mod 65536 (R31). -/
def State.next (s : State) (len : Nat) : CodeAddr := s.pc + BitVec.ofNat 16 len

/-- pc <- target. -/
def State.setPc (s : State) (target : CodeAddr) : State := { s with pc := target }

/-- The implicit end of an instruction of len bytes: pc <- next (R31). -/
def State.advance (s : State) (len : Nat) : State := s.setPc (s.next len)

/-- int_hold <- v (R34). -/
def State.setIntHold (s : State) (v : Bool) : State := { s with intHold := v }

/-! Accesses by address -/

/-- BankMap(a, psw, kind) (R7, R51): the identity but where the parameter says otherwise. -/
def State.bank (s : State) (k : Access) (a : DataAddr) : PhysCell :=
  (s.params.bankMap.lookup (a, s.psw, k)).getD (a.setWidth 16)

/-- What an access of kind k at address a reads. -/
def State.view (s : State) (k : Access) (a : DataAddr) : Byte := s.phys (s.bank k a)

/-- The state after an access of kind k that writes v at address a. -/
def State.store (s : State) (k : Access) (a : DataAddr) (v : Byte) : State := s.setPhys (s.bank k a) v

/-! Accesses that may be refused -/

/-- Runs k on what r answers; a fault or a refusal stays what it is. -/
def andThen {α β : Type} (r : Host.Outcome α Fault Refusal) (k : α → Host.Outcome β Fault Refusal) :
    Host.Outcome β Fault Refusal :=
  match r with
  | .next a => k a
  | .fault f => .fault f
  | .refused e => .refused e

/-- The cell is in DeviceCells (R52). -/
def State.isDevice (s : State) (a : DataAddr) : Bool := decide (a ∈ s.deviceCells)

/-- A read of kind k: refused at a device cell (R52). -/
def readVia (k : Access) (a : DataAddr) (s : State) : Host.Outcome Byte Fault Refusal :=
  if s.isDevice a then .refused (.deviceCell a) else .next (s.view k a)

/-- A write of kind k: refused at a device cell (R53). -/
def writeVia (k : Access) (a : DataAddr) (v : Byte) (s : State) : Host.Outcome State Fault Refusal :=
  if s.isDevice a then .refused (.deviceCell a) else .next (s.store k a v)

/-- MemRead(a, 1) (R52). -/
def memRead (a : DataAddr) (s : State) : Host.Outcome Byte Fault Refusal := readVia .read a s

/-- MemWrite(a, 1, v) (R53). -/
def memWrite (a : DataAddr) (v : Byte) (s : State) : Host.Outcome State Fault Refusal := writeVia .write a v s

/-- RomRead(a) (R56). -/
def State.romRead (s : State) (a : CodeAddr) : Byte := Memory.read s.rom a.toNat

/-! The stack (R58, R59) -/

/-- The stack cell that a value of sp points at: zext_9(sp), one of 0x000..0x0FF (R58). -/
def stackCell (sp : Byte) : DataAddr := sp.setWidth 9

/-- Push(v): sp is incremented, then v is written through the new sp (R58). -/
def push (v : Byte) (s : State) : Host.Outcome State Fault Refusal :=
  let s1 := s.setSp (s.sp + 1)
  writeVia .push (stackCell s1.sp) v s1

/-- Pop(): the byte sp points at is read, then sp is decremented (R59). -/
def pop (s : State) : Host.Outcome (Byte × State) Fault Refusal :=
  andThen (readVia .pop (stackCell s.sp) s) fun v => .next (v, s.setSp (s.sp - 1))

/-- Pushes a code address as two bytes, the low byte first (R60, R255). -/
def pushAddr (a : CodeAddr) (s : State) : Host.Outcome State Fault Refusal :=
  andThen (push (a.extractLsb' 0 8) s) fun s1 => push (a.extractLsb' 8 8) s1

/-- Pops a code address, the high byte first (R60, R253). -/
def popAddr (s : State) : Host.Outcome (CodeAddr × State) Fault Refusal :=
  andThen (pop s) fun hi =>
    andThen (pop hi.2) fun lo => .next (hi.1 ++ lo.1, lo.2)

/-! Interrupts (R285 to R287) -/

/-- Interrupt entry: pushes pc, the address of the instruction that would have run next, low byte first,
sets int_hold and loads pc with the vector. Nothing else changes (R286). -/
def enterInterrupt (vector : CodeAddr) (s : State) : Host.Outcome State Fault Refusal :=
  andThen (pushAddr s.pc s) fun t => .next ((t.setIntHold true).setPc vector)

/-- The return from an interrupt: pops pc, high byte first, and clears int_hold. It restores nothing else
(R254, R287). -/
def returnFromInterrupt (s : State) : Host.Outcome State Fault Refusal :=
  andThen (popAddr s) fun r => .next ((r.2.setPc r.1).setIntHold false)

end Sys2Proof.Machine
end

