-- ==== Sys2Proof/Machine/Flags.lean ====
section
/-! DEFINITION. Every flag computation of the spec: add, addc, sub, subc (spec/40_arithmetic.md R120 to
R123, R128), mul and div (R126, R127), be and bne (spec/44_branch.md R226, R227). -/

namespace Sys2Proof.Machine

/-- The three flags. -/
structure Flags where
  cy : Bool
  ac : Bool
  ov : Bool
  deriving DecidableEq, Repr

/-- cy, ac and ov take the three values; the other five bits of psw stay (R24). -/
def State.setFlags (s : State) (f : Flags) : State := ((s.setCy f.cy).setAc f.ac).setOv f.ov

/-- The low nibble v[3:0] as a number. -/
def lowNibble (v : Byte) : Nat := v.toNat % 16

/-- The result of add (k = 0) and addc (k = cy): (a + v + k) mod 256 (R120, R121). -/
def addResult (a v : Byte) (k : Bool) : Byte := BitVec.ofNat 8 (a.toNat + v.toNat + k.toNat)

/-- The flags of add (k = 0) and addc (k = cy): carry out of bit 7, carry out of bit 3, signed overflow
(R120, R121, R128). -/
def addFlags (a v : Byte) (k : Bool) : Flags where
  cy := decide (a.toNat + v.toNat + k.toNat > 255)
  ac := decide (lowNibble a + lowNibble v + k.toNat > 15)
  ov := a.msb == v.msb && (addResult a v k).msb != a.msb

/-- The result of sub (k = 0) and subc (k = cy): (a - v - k) mod 256 (R122, R123). -/
def subResult (a v : Byte) (k : Bool) : Byte := BitVec.ofInt 8 (a.toNat - v.toNat - k.toNat)

/-- The flags of sub (k = 0) and subc (k = cy): borrow into bit 7, borrow into bit 3, signed overflow
(R122, R123, R128). -/
def subFlags (a v : Byte) (k : Bool) : Flags where
  cy := decide ((a.toNat : Int) - v.toNat - k.toNat < 0)
  ac := decide ((lowNibble a : Int) - lowNibble v - k.toNat < 0)
  ov := a.msb != v.msb && (subResult a v k).msb != a.msb

/-- ov of mul: the product does not fit in 16 bits (R126). -/
def mulOv (product : Nat) : Bool := decide (product > 0xFFFF)

/-- ov of div: the remainder is zero (R127). -/
def divOv (remainder : Nat) : Bool := decide (remainder = 0)

/-- cy of be and bne: the left value is less than the right one, unsigned (R226, R227). -/
def compareCy (left right : Byte) : Bool := decide (left.toNat < right.toNat)

end Sys2Proof.Machine
end

