-- ==== Sys2Proof/Machine/Operands.lean ====
section
/-! DEFINITION. The operand forms (spec/42_memory_storage.md R189, spec/20_memory.md R55, R73, R74) and the
target computations of jumps, branches and calls (spec/43_jump.md R214). -/

namespace Sys2Proof.Machine

/-- PtrCell(i, psw), the cell that holds Ri: what the parameter says, and by default
(psw[4:3] << 2) | i, one of 0x000..0x00F (R7, R28). -/
def ptrCell (p : Params) (i : BitVec 2) (psw : Byte) : DataAddr :=
  (p.ptrCells.lookup (i, psw)).getD
    ((BitVec.ofBool (psw.getLsbD p.bitIrbk1.toNat) ++ BitVec.ofBool (psw.getLsbD p.bitIrbk0.toNat) ++ i).setWidth 9)

/-- x[i]: the value of Ri. Reading it is never refused (R28, R55). -/
def State.ptr (s : State) (i : BitVec 2) : Byte := s.view .pointer (ptrCell s.params i s.psw)

/-- PtrBase(i): what the parameter says, and by default 0x000 for R0 and R1, 0x100 for R2 and R3 (R7, R55). -/
def ptrBase (p : Params) (i : BitVec 2) : DataAddr :=
  (p.ptrBases.lookup i).getD (if i.toNat < 2 then 0x000#9 else 0x100#9)

/-- EA(i) = PtrBase(i) + zext_9(x[i]), the cell that `@Ri` designates (R55). At the default PtrBase the sum is a
9-bit address. Another PtrBase can make it pass 0x1FF; the spec gives no address there, and the sum is taken
modulo 512: DESIGN CHOICE, unsafe (log 16). -/
def State.ea (s : State) (i : BitVec 2) : DataAddr := ptrBase s.params i + (s.ptr i).setWidth 9

/-- Src of an `#i8` form: the constant, without a memory access (R73). -/
def srcImm (i8 : Byte) : Host.Outcome Byte Fault Refusal := .next i8

/-- Src of a `d9` form: MemRead(d9, 1) (R73). -/
def srcDir (d9 : DataAddr) (s : State) : Host.Outcome Byte Fault Refusal := memRead d9 s

/-- Src of an `@Ri` form: MemRead(EA(i), 1) (R73). -/
def srcInd (i : BitVec 2) (s : State) : Host.Outcome Byte Fault Refusal := memRead (s.ea i) s

/-- Loc of a `d9` form (R74). -/
def locDir (d9 : DataAddr) : DataAddr := d9

/-- Loc of an `@Ri` form: EA(i) at the start of the instruction (R55, R74). -/
def locInd (i : BitVec 2) (s : State) : DataAddr := s.ea i

/-- The target of jmp and call: next[15:12] : a12 (R102). -/
def target12 (next : CodeAddr) (a12 : BitVec 12) : CodeAddr := next.extractLsb' 12 4 ++ a12

/-- The target of the short branches: (next + sext_16(r8)) mod 65536 (R104). -/
def target8 (next : CodeAddr) (r8 : Byte) : CodeAddr := next + r8.signExtend 16

/-- The target of brf and callr: (next - 1 + r16) mod 65536 (R105). -/
def target16 (next : CodeAddr) (r16 : BitVec 16) : CodeAddr := next - 1 + r16

end Sys2Proof.Machine
end

