-- ==== Sys2Proof/Machine/Arithmetic.lean ====
section
/-! DEFINITION. The meanings of the arithmetic family: add, addc, sub, subc, inc, dec, mul, div
(spec/40_arithmetic.md). A meaning has its instruction's operands and the state, in which pc is the
instruction's address. -/

namespace Sys2Proof.Machine

/-! Shared operations -/

/-- acc and the three flags of a + v + k, then pc <- next (R120, R121). -/
def addOp (k : Bool) (src : Host.Outcome Byte Fault Refusal) (len : Nat) (s : State) :
    Host.Outcome State Fault Refusal :=
  andThen src fun v =>
    .next (((s.setAcc (addResult s.acc v k)).setFlags (addFlags s.acc v k)).advance len)

/-- acc and the three flags of a - v - k, then pc <- next (R122, R123). -/
def subOp (k : Bool) (src : Host.Outcome Byte Fault Refusal) (len : Nat) (s : State) :
    Host.Outcome State Fault Refusal :=
  andThen src fun v =>
    .next (((s.setAcc (subResult s.acc v k)).setFlags (subFlags s.acc v k)).advance len)

/-- The cell at loc takes f of its content, then pc <- next; no flag is written (R124, R125). -/
def modifyOp (f : Byte → Byte) (loc : DataAddr) (len : Nat) (s : State) : Host.Outcome State Fault Refusal :=
  andThen (memRead loc s) fun t => andThen (memWrite loc (f t) s) fun s1 => .next (s1.advance len)

/-! add (R120) -/

/-- `add #i8` -/
def execAddImm (i8 : Byte) (s : State) : Host.Outcome State Fault Refusal := addOp false (srcImm i8) 2 s
/-- `add d9` -/
def execAddDir (d9 : DataAddr) (s : State) : Host.Outcome State Fault Refusal := addOp false (srcDir d9 s) 2 s
/-- `add @Ri` -/
def execAddInd (i : BitVec 2) (s : State) : Host.Outcome State Fault Refusal := addOp false (srcInd i s) 1 s

/-! addc (R121) -/

/-- `addc #i8` -/
def execAddcImm (i8 : Byte) (s : State) : Host.Outcome State Fault Refusal := addOp s.cy (srcImm i8) 2 s
/-- `addc d9` -/
def execAddcDir (d9 : DataAddr) (s : State) : Host.Outcome State Fault Refusal := addOp s.cy (srcDir d9 s) 2 s
/-- `addc @Ri` -/
def execAddcInd (i : BitVec 2) (s : State) : Host.Outcome State Fault Refusal := addOp s.cy (srcInd i s) 1 s

/-! sub (R122) -/

/-- `sub #i8` -/
def execSubImm (i8 : Byte) (s : State) : Host.Outcome State Fault Refusal := subOp false (srcImm i8) 2 s
/-- `sub d9` -/
def execSubDir (d9 : DataAddr) (s : State) : Host.Outcome State Fault Refusal := subOp false (srcDir d9 s) 2 s
/-- `sub @Ri` -/
def execSubInd (i : BitVec 2) (s : State) : Host.Outcome State Fault Refusal := subOp false (srcInd i s) 1 s

/-! subc (R123) -/

/-- `subc #i8` -/
def execSubcImm (i8 : Byte) (s : State) : Host.Outcome State Fault Refusal := subOp s.cy (srcImm i8) 2 s
/-- `subc d9` -/
def execSubcDir (d9 : DataAddr) (s : State) : Host.Outcome State Fault Refusal := subOp s.cy (srcDir d9 s) 2 s
/-- `subc @Ri` -/
def execSubcInd (i : BitVec 2) (s : State) : Host.Outcome State Fault Refusal := subOp s.cy (srcInd i s) 1 s

/-! inc and dec (R124, R125): modulo 256, no flag -/

/-- `inc d9` -/
def execIncDir (d9 : DataAddr) (s : State) : Host.Outcome State Fault Refusal :=
  modifyOp (fun t => t + 1) (locDir d9) 2 s
/-- `inc @Ri` -/
def execIncInd (i : BitVec 2) (s : State) : Host.Outcome State Fault Refusal :=
  modifyOp (fun t => t + 1) (locInd i s) 1 s
/-- `dec d9` -/
def execDecDir (d9 : DataAddr) (s : State) : Host.Outcome State Fault Refusal :=
  modifyOp (fun t => t - 1) (locDir d9) 2 s
/-- `dec @Ri` -/
def execDecInd (i : BitVec 2) (s : State) : Host.Outcome State Fault Refusal :=
  modifyOp (fun t => t - 1) (locInd i s) 1 s

/-! mul (R126) and div (R127) -/

/-- The 16-bit operand of mul and div, acc : c, as a number (R126, R127). -/
def State.accC (s : State) : Nat := (s.acc ++ s.c).toNat

/-- `mul`: b : acc : c take the 24-bit product of acc : c and b; cy is cleared, ac stays. -/
def execMul (s : State) : Host.Outcome State Fault Refusal :=
  let p := s.accC * s.b.toNat
  .next ((((((s.setB (BitVec.ofNat 8 (p / 65536))).setAcc (BitVec.ofNat 8 (p / 256))).setC
    (BitVec.ofNat 8 p)).setCy false).setOv (mulOv p)).advance 1)

/-- The effect of div by a divisor that is not zero: quotient to acc : c, remainder to b (R127). -/
def divide (s : State) : State :=
  let q := s.accC / s.b.toNat
  let r := s.accC % s.b.toNat
  ((((s.setAcc (BitVec.ofNat 8 (q / 256))).setC (BitVec.ofNat 8 q)).setB (BitVec.ofNat 8 r)).setCy
    false).setOv (divOv r)

/-- The effect of div by zero: acc, c, b and ov take what the free value DivByZero gives; cy is still
cleared and ac still unchanged (R127, R7; log 7). -/
def divideByZero (s : State) : State :=
  let r := Config.divByZero s.acc s.c
  ((((s.setAcc r.acc).setC r.c).setB r.b).setCy false).setOv r.ov

/-- `div` -/
def execDiv (s : State) : Host.Outcome State Fault Refusal :=
  .next ((if s.b = 0 then divideByZero s else divide s).advance 1)

end Sys2Proof.Machine
end

