-- ==== Sys2Proof/Machine/Bitwise.lean ====
section
/-! DEFINITION. The meanings of the bitwise family: and, or, xor, rol, rolc, ror, rorc, clr1, set1, not1
(spec/41_bitwise.md). No flag is written but cy by rolc and rorc. -/

namespace Sys2Proof.Machine

/-! Shared operations -/

/-- acc <- f acc Src, then pc <- next (R150 to R152). -/
def logicOp (f : Byte → Byte → Byte) (src : Host.Outcome Byte Fault Refusal) (len : Nat) (s : State) :
    Host.Outcome State Fault Refusal :=
  andThen src fun v => .next ((s.setAcc (f s.acc v)).advance len)

/-- The byte with only bit b3 set: 1 << b3 (R157). -/
def bitMask (b3 : BitVec 3) : Byte := 1#8 <<< b3.toNat

/-- The cell at d9 is read and written back with f of it and the mask of bit b3, then pc <- next (R157 to
R159). -/
def bitOp (f : Byte → Byte → Byte) (d9 : DataAddr) (b3 : BitVec 3) (s : State) :
    Host.Outcome State Fault Refusal :=
  andThen (memRead d9 s) fun t => andThen (memWrite d9 (f t (bitMask b3)) s) fun s1 => .next (s1.advance 2)

/-! and, or, xor (R150, R151, R152) -/

/-- `and #i8` -/
def execAndImm (i8 : Byte) (s : State) : Host.Outcome State Fault Refusal :=
  logicOp (fun a v => a &&& v) (srcImm i8) 2 s
/-- `and d9` -/
def execAndDir (d9 : DataAddr) (s : State) : Host.Outcome State Fault Refusal :=
  logicOp (fun a v => a &&& v) (srcDir d9 s) 2 s
/-- `and @Ri` -/
def execAndInd (i : BitVec 2) (s : State) : Host.Outcome State Fault Refusal :=
  logicOp (fun a v => a &&& v) (srcInd i s) 1 s
/-- `or #i8` -/
def execOrImm (i8 : Byte) (s : State) : Host.Outcome State Fault Refusal :=
  logicOp (fun a v => a ||| v) (srcImm i8) 2 s
/-- `or d9` -/
def execOrDir (d9 : DataAddr) (s : State) : Host.Outcome State Fault Refusal :=
  logicOp (fun a v => a ||| v) (srcDir d9 s) 2 s
/-- `or @Ri` -/
def execOrInd (i : BitVec 2) (s : State) : Host.Outcome State Fault Refusal :=
  logicOp (fun a v => a ||| v) (srcInd i s) 1 s
/-- `xor #i8` -/
def execXorImm (i8 : Byte) (s : State) : Host.Outcome State Fault Refusal :=
  logicOp (fun a v => a ^^^ v) (srcImm i8) 2 s
/-- `xor d9` -/
def execXorDir (d9 : DataAddr) (s : State) : Host.Outcome State Fault Refusal :=
  logicOp (fun a v => a ^^^ v) (srcDir d9 s) 2 s
/-- `xor @Ri` -/
def execXorInd (i : BitVec 2) (s : State) : Host.Outcome State Fault Refusal :=
  logicOp (fun a v => a ^^^ v) (srcInd i s) 1 s

/-! The rotates -/

/-- a[6:0] : k, the byte shifted left with k in bit 0 (R153, R154). -/
def shiftInLow (a : Byte) (k : Bool) : Byte := a.extractLsb' 0 7 ++ BitVec.ofBool k

/-- k : a[7:1], the byte shifted right with k in bit 7 (R155, R156). -/
def shiftInHigh (a : Byte) (k : Bool) : Byte := BitVec.ofBool k ++ a.extractLsb' 1 7

/-- `rol` (R153): bit 7 wraps around to bit 0; cy does not receive it. -/
def execRol (s : State) : Host.Outcome State Fault Refusal :=
  .next ((s.setAcc (shiftInLow s.acc (s.acc.getLsbD 7))).advance 1)
/-- `rolc` (R154): the old cy goes to bit 0 and bit 7 to cy. -/
def execRolc (s : State) : Host.Outcome State Fault Refusal :=
  .next (((s.setAcc (shiftInLow s.acc s.cy)).setCy (s.acc.getLsbD 7)).advance 1)
/-- `ror` (R155): bit 0 wraps around to bit 7. -/
def execRor (s : State) : Host.Outcome State Fault Refusal :=
  .next ((s.setAcc (shiftInHigh s.acc (s.acc.getLsbD 0))).advance 1)
/-- `rorc` (R156): the old cy goes to bit 7 and bit 0 to cy. -/
def execRorc (s : State) : Host.Outcome State Fault Refusal :=
  .next (((s.setAcc (shiftInHigh s.acc s.cy)).setCy (s.acc.getLsbD 0)).advance 1)

/-! clr1, set1, not1 (R157, R158, R159) -/

/-- `clr1 d9, b3` -/
def execClr1 (d9 : DataAddr) (b3 : BitVec 3) (s : State) : Host.Outcome State Fault Refusal :=
  bitOp (fun t m => t &&& ~~~m) d9 b3 s
/-- `set1 d9, b3` -/
def execSet1 (d9 : DataAddr) (b3 : BitVec 3) (s : State) : Host.Outcome State Fault Refusal :=
  bitOp (fun t m => t ||| m) d9 b3 s
/-- `not1 d9, b3` -/
def execNot1 (d9 : DataAddr) (b3 : BitVec 3) (s : State) : Host.Outcome State Fault Refusal :=
  bitOp (fun t m => t ^^^ m) d9 b3 s

end Sys2Proof.Machine
end

