-- ==== Sys2Proof/Machine/Branch.lean ====
section
/-! DEFINITION. The meanings of the conditional branches: bz, bnz, bp, bpc, bn, dbnz, be, bne
(spec/44_branch.md). -/

namespace Sys2Proof.Machine

/-! Shared operations -/

/-- The end of every branch of this family: the r8 target if the condition holds, else next (R104). -/
def State.branch (s : State) (taken : Bool) (len : Nat) (r8 : Byte) : State :=
  s.setPc (if taken then target8 (s.next len) r8 else s.next len)

/-- bp and bn: branches if bit b3 of the cell at d9 is `want` (R222, R224). -/
def bitBranchOp (want : Bool) (d9 : DataAddr) (b3 : BitVec 3) (r8 : Byte) (s : State) :
    Host.Outcome State Fault Refusal :=
  andThen (memRead d9 s) fun t => .next (s.branch (t.getLsbD b3.toNat == want) 3 r8)

/-- dbnz: the cell at loc is decremented modulo 256, and the branch is taken unless the result is zero
(R225). -/
def decBranchOp (loc : DataAddr) (len : Nat) (r8 : Byte) (s : State) : Host.Outcome State Fault Refusal :=
  andThen (memRead loc s) fun t =>
    andThen (memWrite loc (t - 1) s) fun s1 => .next (s1.branch (decide (t - 1 ≠ 0)) len r8)

/-- be and bne: cy <- left < right unsigned; branches if left = right is `want` (R226, R227). -/
def compareBranchOp (want : Bool) (left right : Host.Outcome Byte Fault Refusal) (r8 : Byte) (s : State) :
    Host.Outcome State Fault Refusal :=
  andThen left fun a =>
    andThen right fun v => .next ((s.setCy (compareCy a v)).branch (decide (a = v) == want) 3 r8)

/-! bz, bnz (R220, R221) -/

/-- `bz r8` -/
def execBz (r8 : Byte) (s : State) : Host.Outcome State Fault Refusal :=
  .next (s.branch (decide (s.acc = 0)) 2 r8)
/-- `bnz r8` -/
def execBnz (r8 : Byte) (s : State) : Host.Outcome State Fault Refusal :=
  .next (s.branch (decide (s.acc ≠ 0)) 2 r8)

/-! bp, bpc, bn (R222, R223, R224) -/

/-- `bp d9, b3, r8` -/
def execBp (d9 : DataAddr) (b3 : BitVec 3) (r8 : Byte) (s : State) : Host.Outcome State Fault Refusal :=
  bitBranchOp true d9 b3 r8 s
/-- `bpc d9, b3, r8`: if the bit is 1 it is cleared and the branch is taken; else the cell is not written
and the branch is not taken. -/
def execBpc (d9 : DataAddr) (b3 : BitVec 3) (r8 : Byte) (s : State) : Host.Outcome State Fault Refusal :=
  andThen (memRead d9 s) fun t =>
    if t.getLsbD b3.toNat then
      andThen (memWrite d9 (t &&& ~~~bitMask b3) s) fun s1 => .next (s1.branch true 3 r8)
    else .next (s.branch false 3 r8)
/-- `bn d9, b3, r8` -/
def execBn (d9 : DataAddr) (b3 : BitVec 3) (r8 : Byte) (s : State) : Host.Outcome State Fault Refusal :=
  bitBranchOp false d9 b3 r8 s

/-! dbnz (R225) -/

/-- `dbnz d9, r8` -/
def execDbnzDir (d9 : DataAddr) (r8 : Byte) (s : State) : Host.Outcome State Fault Refusal :=
  decBranchOp (locDir d9) 3 r8 s
/-- `dbnz @Ri, r8` -/
def execDbnzInd (i : BitVec 2) (r8 : Byte) (s : State) : Host.Outcome State Fault Refusal :=
  decBranchOp (locInd i s) 2 r8 s

/-! be, bne (R226, R227) -/

/-- `be #i8, r8`: acc against the constant. -/
def execBeImm (i8 r8 : Byte) (s : State) : Host.Outcome State Fault Refusal :=
  compareBranchOp true (.next s.acc) (srcImm i8) r8 s
/-- `be d9, r8`: acc against the cell. -/
def execBeDir (d9 : DataAddr) (r8 : Byte) (s : State) : Host.Outcome State Fault Refusal :=
  compareBranchOp true (.next s.acc) (srcDir d9 s) r8 s
/-- `be @Ri, #i8, r8`: the designated cell against the constant. -/
def execBeInd (i : BitVec 2) (i8 r8 : Byte) (s : State) : Host.Outcome State Fault Refusal :=
  compareBranchOp true (srcInd i s) (srcImm i8) r8 s
/-- `bne #i8, r8` -/
def execBneImm (i8 r8 : Byte) (s : State) : Host.Outcome State Fault Refusal :=
  compareBranchOp false (.next s.acc) (srcImm i8) r8 s
/-- `bne d9, r8` -/
def execBneDir (d9 : DataAddr) (r8 : Byte) (s : State) : Host.Outcome State Fault Refusal :=
  compareBranchOp false (.next s.acc) (srcDir d9 s) r8 s
/-- `bne @Ri, #i8, r8` -/
def execBneInd (i : BitVec 2) (i8 r8 : Byte) (s : State) : Host.Outcome State Fault Refusal :=
  compareBranchOp false (srcInd i s) (srcImm i8) r8 s

end Sys2Proof.Machine
end

