-- ==== Sys2Proof/Machine/Call.lean ====
section
/-! DEFINITION. The meanings of the call family: call, callf, callr, ret, reti (spec/45_call.md). -/

namespace Sys2Proof.Machine

/-- Pushes the return address next, low byte first, then pc <- target (R255). -/
def callOp (target : CodeAddr) (len : Nat) (s : State) : Host.Outcome State Fault Refusal :=
  andThen (pushAddr (s.next len) s) fun s1 => .next (s1.setPc target)

/-- `call a12` (R250). -/
def execCall (a12 : BitVec 12) (s : State) : Host.Outcome State Fault Refusal :=
  callOp (target12 (s.next 2) a12) 2 s
/-- `callf a16` (R251). -/
def execCallf (a16 : CodeAddr) (s : State) : Host.Outcome State Fault Refusal := callOp a16 3 s
/-- `callr r16` (R252). -/
def execCallr (r16 : BitVec 16) (s : State) : Host.Outcome State Fault Refusal :=
  callOp (target16 (s.next 3) r16) 3 s
/-- `ret` (R253): pops pc, high byte first; int_hold stays. -/
def execRet (s : State) : Host.Outcome State Fault Refusal :=
  andThen (popAddr s) fun r => .next (r.2.setPc r.1)
/-- `reti` (R254). -/
def execReti (s : State) : Host.Outcome State Fault Refusal := returnFromInterrupt s

end Sys2Proof.Machine
end

