-- ==== Sys2Proof/Machine/Jump.lean ====
section
/-! DEFINITION. The meanings of the jump family: jmp, jmpf, br, brf (spec/43_jump.md). They change pc and
nothing else. -/

namespace Sys2Proof.Machine

/-- `jmp a12` (R210): the page of next, the low twelve bits a12. -/
def execJmp (a12 : BitVec 12) (s : State) : Host.Outcome State Fault Refusal :=
  .next (s.setPc (target12 (s.next 2) a12))
/-- `jmpf a16` (R211). -/
def execJmpf (a16 : CodeAddr) (s : State) : Host.Outcome State Fault Refusal := .next (s.setPc a16)
/-- `br r8` (R212). -/
def execBr (r8 : Byte) (s : State) : Host.Outcome State Fault Refusal := .next (s.setPc (target8 (s.next 2) r8))
/-- `brf r16` (R213). -/
def execBrf (r16 : BitVec 16) (s : State) : Host.Outcome State Fault Refusal :=
  .next (s.setPc (target16 (s.next 3) r16))

end Sys2Proof.Machine
end

