-- ==== Sys2Proof/Machine/Nop.lean ====
section
/-! DEFINITION. The meaning of nop (spec/46_nop.md). -/

namespace Sys2Proof.Machine

/-- `nop` (R270): pc <- next and nothing else. -/
def execNop (s : State) : Host.Outcome State Fault Refusal := .next (s.advance 1)

end Sys2Proof.Machine
end

