-- ==== Sys2Proof/Machine/Storage.lean ====
section
/-! DEFINITION. The meanings of the memory and storage family: ld, st, mov, ldc, push, pop, xch, ldf, stf
(spec/42_memory_storage.md). No flag is written, but as data in the psw cell. -/

namespace Sys2Proof.Machine

/-! Shared operations -/

/-- acc <- MemRead(loc), then pc <- next (R180). -/
def loadOp (loc : DataAddr) (len : Nat) (s : State) : Host.Outcome State Fault Refusal :=
  andThen (memRead loc s) fun v => .next ((s.setAcc v).advance len)

/-- MemWrite(loc, v), then pc <- next (R181, R182). -/
def storeOp (loc : DataAddr) (v : Byte) (len : Nat) (s : State) : Host.Outcome State Fault Refusal :=
  andThen (memWrite loc v s) fun s1 => .next (s1.advance len)

/-- The cell at loc and acc exchange their contents, then pc <- next (R186). -/
def exchangeOp (loc : DataAddr) (len : Nat) (s : State) : Host.Outcome State Fault Refusal :=
  andThen (memRead loc s) fun t =>
    andThen (memWrite loc s.acc s) fun s1 => .next ((s1.setAcc t).advance len)

/-! ld, st, mov (R180, R181, R182) -/

/-- `ld d9` -/
def execLdDir (d9 : DataAddr) (s : State) : Host.Outcome State Fault Refusal := loadOp (locDir d9) 2 s
/-- `ld @Ri` -/
def execLdInd (i : BitVec 2) (s : State) : Host.Outcome State Fault Refusal := loadOp (locInd i s) 1 s
/-- `st d9` -/
def execStDir (d9 : DataAddr) (s : State) : Host.Outcome State Fault Refusal := storeOp (locDir d9) s.acc 2 s
/-- `st @Ri` -/
def execStInd (i : BitVec 2) (s : State) : Host.Outcome State Fault Refusal := storeOp (locInd i s) s.acc 1 s
/-- `mov #i8, d9` -/
def execMovDir (i8 : Byte) (d9 : DataAddr) (s : State) : Host.Outcome State Fault Refusal :=
  storeOp (locDir d9) i8 3 s
/-- `mov #i8, @Ri` -/
def execMovInd (i8 : Byte) (i : BitVec 2) (s : State) : Host.Outcome State Fault Refusal :=
  storeOp (locInd i s) i8 2 s

/-! ldc (R183) -/

/-- The ROM address of ldc: (tr + zext_16(acc)) mod 65536. -/
def State.ldcAddr (s : State) : CodeAddr := s.tr + s.acc.setWidth 16

/-- `ldc` -/
def execLdc (s : State) : Host.Outcome State Fault Refusal :=
  .next ((s.setAcc (s.romRead s.ldcAddr)).advance 1)

/-! push and pop (R184, R185) -/

/-- `push d9` (R184): refused for the sp cell (D18); else sp is incremented, then d9 is read, then the byte is
written where the new sp points. -/
def execPush (d9 : DataAddr) (s : State) : Host.Outcome State Fault Refusal :=
  if d9 = s.params.addrSp then .refused .pushOfSpCell
  else
    let s1 := s.setSp (s.sp + 1)
    andThen (memRead d9 s1) fun v =>
      andThen (writeVia .push (stackCell s1.sp) v s1) fun s2 => .next (s2.advance 2)

/-- `pop d9` (R185): refused for the sp cell (D18); else the byte sp points at is read, then written to d9, then
sp is decremented. -/
def execPop (d9 : DataAddr) (s : State) : Host.Outcome State Fault Refusal :=
  if d9 = s.params.addrSp then .refused .popIntoSpCell
  else
    andThen (readVia .pop (stackCell s.sp) s) fun v =>
      andThen (memWrite d9 v s) fun s1 => .next ((s1.setSp (s1.sp - 1)).advance 2)

/-! xch (R186) -/

/-- `xch d9` -/
def execXchDir (d9 : DataAddr) (s : State) : Host.Outcome State Fault Refusal := exchangeOp (locDir d9) 2 s
/-- `xch @Ri` -/
def execXchInd (i : BitVec 2) (s : State) : Host.Outcome State Fault Refusal := exchangeOp (locInd i s) 1 s

/-! ldf and stf (R187, R188): "this spec's machine gives it no meaning" (log 10) -/

/-- `ldf`: refused; the source gives no address, destination, width or flag effect (R187, C9). -/
def execLdf (_ : State) : Host.Outcome State Fault Refusal := .refused .flashLoadUnspecified
/-- `stf`: refused; the source gives no value, address, condition or flag effect (R188). -/
def execStf (_ : State) : Host.Outcome State Fault Refusal := .refused .flashStoreUnspecified

end Sys2Proof.Machine
end

