-- ==== Sys2Proof/Syntax.lean ====
section
/-! DEFINITION. The instructions: one constructor for each of the 70 forms of spec/30_encoding.md R107
(one row of opcode_table.json each). A mnemonic with one form has its name; one with several has the
operand kind after it (Imm for #i8, Dir for d9, Ind for @Ri). Operands stand in the order the assembler
writes them (R115). Every value of every field is legal (R109), so the fields carry their widths. -/

namespace Sys2Proof

/-- The 70 forms (R107). d9 a data address (R98), i8 a constant (R99), b3 a bit number (R100), i the
number of Ri (R101), a12 and a16 absolute code addresses (R102, R103), r8 and r16 relative offsets
(R104, R105). -/
inductive Instr where
  /-- `add #i8` (R120) -/
  | addImm (i8 : Byte)
  /-- `add d9` (R120) -/
  | addDir (d9 : DataAddr)
  /-- `add @Ri` (R120) -/
  | addInd (i : BitVec 2)
  /-- `addc #i8` (R121) -/
  | addcImm (i8 : Byte)
  /-- `addc d9` (R121) -/
  | addcDir (d9 : DataAddr)
  /-- `addc @Ri` (R121) -/
  | addcInd (i : BitVec 2)
  /-- `sub #i8` (R122) -/
  | subImm (i8 : Byte)
  /-- `sub d9` (R122) -/
  | subDir (d9 : DataAddr)
  /-- `sub @Ri` (R122) -/
  | subInd (i : BitVec 2)
  /-- `subc #i8` (R123) -/
  | subcImm (i8 : Byte)
  /-- `subc d9` (R123) -/
  | subcDir (d9 : DataAddr)
  /-- `subc @Ri` (R123) -/
  | subcInd (i : BitVec 2)
  /-- `inc d9` (R124) -/
  | incDir (d9 : DataAddr)
  /-- `inc @Ri` (R124) -/
  | incInd (i : BitVec 2)
  /-- `dec d9` (R125) -/
  | decDir (d9 : DataAddr)
  /-- `dec @Ri` (R125) -/
  | decInd (i : BitVec 2)
  /-- `mul` (R126) -/
  | mul
  /-- `div` (R127) -/
  | div
  /-- `and #i8` (R150) -/
  | andImm (i8 : Byte)
  /-- `and d9` (R150) -/
  | andDir (d9 : DataAddr)
  /-- `and @Ri` (R150) -/
  | andInd (i : BitVec 2)
  /-- `or #i8` (R151) -/
  | orImm (i8 : Byte)
  /-- `or d9` (R151) -/
  | orDir (d9 : DataAddr)
  /-- `or @Ri` (R151) -/
  | orInd (i : BitVec 2)
  /-- `xor #i8` (R152) -/
  | xorImm (i8 : Byte)
  /-- `xor d9` (R152) -/
  | xorDir (d9 : DataAddr)
  /-- `xor @Ri` (R152) -/
  | xorInd (i : BitVec 2)
  /-- `rol` (R153) -/
  | rol
  /-- `rolc` (R154) -/
  | rolc
  /-- `ror` (R155) -/
  | ror
  /-- `rorc` (R156) -/
  | rorc
  /-- `clr1 d9, b3` (R157) -/
  | clr1 (d9 : DataAddr) (b3 : BitVec 3)
  /-- `set1 d9, b3` (R158) -/
  | set1 (d9 : DataAddr) (b3 : BitVec 3)
  /-- `not1 d9, b3` (R159) -/
  | not1 (d9 : DataAddr) (b3 : BitVec 3)
  /-- `ld d9` (R180) -/
  | ldDir (d9 : DataAddr)
  /-- `ld @Ri` (R180) -/
  | ldInd (i : BitVec 2)
  /-- `st d9` (R181) -/
  | stDir (d9 : DataAddr)
  /-- `st @Ri` (R181) -/
  | stInd (i : BitVec 2)
  /-- `mov #i8, d9` (R182) -/
  | movDir (i8 : Byte) (d9 : DataAddr)
  /-- `mov #i8, @Ri` (R182) -/
  | movInd (i8 : Byte) (i : BitVec 2)
  /-- `ldc` (R183) -/
  | ldc
  /-- `push d9` (R184) -/
  | push (d9 : DataAddr)
  /-- `pop d9` (R185) -/
  | pop (d9 : DataAddr)
  /-- `xch d9` (R186) -/
  | xchDir (d9 : DataAddr)
  /-- `xch @Ri` (R186) -/
  | xchInd (i : BitVec 2)
  /-- `ldf` (R187) -/
  | ldf
  /-- `stf` (R188) -/
  | stf
  /-- `jmp a12` (R210) -/
  | jmp (a12 : BitVec 12)
  /-- `jmpf a16` (R211) -/
  | jmpf (a16 : CodeAddr)
  /-- `br r8` (R212) -/
  | br (r8 : Byte)
  /-- `brf r16` (R213) -/
  | brf (r16 : BitVec 16)
  /-- `bz r8` (R220) -/
  | bz (r8 : Byte)
  /-- `bnz r8` (R221) -/
  | bnz (r8 : Byte)
  /-- `bp d9, b3, r8` (R222) -/
  | bp (d9 : DataAddr) (b3 : BitVec 3) (r8 : Byte)
  /-- `bpc d9, b3, r8` (R223) -/
  | bpc (d9 : DataAddr) (b3 : BitVec 3) (r8 : Byte)
  /-- `bn d9, b3, r8` (R224) -/
  | bn (d9 : DataAddr) (b3 : BitVec 3) (r8 : Byte)
  /-- `dbnz d9, r8` (R225) -/
  | dbnzDir (d9 : DataAddr) (r8 : Byte)
  /-- `dbnz @Ri, r8` (R225) -/
  | dbnzInd (i : BitVec 2) (r8 : Byte)
  /-- `be #i8, r8` (R226) -/
  | beImm (i8 : Byte) (r8 : Byte)
  /-- `be d9, r8` (R226) -/
  | beDir (d9 : DataAddr) (r8 : Byte)
  /-- `be @Ri, #i8, r8` (R226) -/
  | beInd (i : BitVec 2) (i8 : Byte) (r8 : Byte)
  /-- `bne #i8, r8` (R227) -/
  | bneImm (i8 : Byte) (r8 : Byte)
  /-- `bne d9, r8` (R227) -/
  | bneDir (d9 : DataAddr) (r8 : Byte)
  /-- `bne @Ri, #i8, r8` (R227) -/
  | bneInd (i : BitVec 2) (i8 : Byte) (r8 : Byte)
  /-- `call a12` (R250) -/
  | call (a12 : BitVec 12)
  /-- `callf a16` (R251) -/
  | callf (a16 : CodeAddr)
  /-- `callr r16` (R252) -/
  | callr (r16 : BitVec 16)
  /-- `ret` (R253) -/
  | ret
  /-- `reti` (R254) -/
  | reti
  /-- `nop` (R270) -/
  | nop
  deriving DecidableEq, Repr

end Sys2Proof
end

