-- ==== Sys2Proof/Machine/Dispatch.lean ====
section
/-! DEFINITION. The meaning of every instruction, one arm for each constructor of Instr. -/

namespace Sys2Proof.Machine

def exec (i : Instr) (s : State) : Host.Outcome State Fault Refusal :=
  match i with
  | .addImm i8 => Sys2Proof.Machine.execAddImm i8 s
  | .addDir d9 => Sys2Proof.Machine.execAddDir d9 s
  | .addInd ri => Sys2Proof.Machine.execAddInd ri s
  | .addcImm i8 => Sys2Proof.Machine.execAddcImm i8 s
  | .addcDir d9 => Sys2Proof.Machine.execAddcDir d9 s
  | .addcInd ri => Sys2Proof.Machine.execAddcInd ri s
  | .subImm i8 => Sys2Proof.Machine.execSubImm i8 s
  | .subDir d9 => Sys2Proof.Machine.execSubDir d9 s
  | .subInd ri => Sys2Proof.Machine.execSubInd ri s
  | .subcImm i8 => Sys2Proof.Machine.execSubcImm i8 s
  | .subcDir d9 => Sys2Proof.Machine.execSubcDir d9 s
  | .subcInd ri => Sys2Proof.Machine.execSubcInd ri s
  | .incDir d9 => Sys2Proof.Machine.execIncDir d9 s
  | .incInd ri => Sys2Proof.Machine.execIncInd ri s
  | .decDir d9 => Sys2Proof.Machine.execDecDir d9 s
  | .decInd ri => Sys2Proof.Machine.execDecInd ri s
  | .mul => Sys2Proof.Machine.execMul s
  | .div => Sys2Proof.Machine.execDiv s
  | .andImm i8 => Sys2Proof.Machine.execAndImm i8 s
  | .andDir d9 => Sys2Proof.Machine.execAndDir d9 s
  | .andInd ri => Sys2Proof.Machine.execAndInd ri s
  | .orImm i8 => Sys2Proof.Machine.execOrImm i8 s
  | .orDir d9 => Sys2Proof.Machine.execOrDir d9 s
  | .orInd ri => Sys2Proof.Machine.execOrInd ri s
  | .xorImm i8 => Sys2Proof.Machine.execXorImm i8 s
  | .xorDir d9 => Sys2Proof.Machine.execXorDir d9 s
  | .xorInd ri => Sys2Proof.Machine.execXorInd ri s
  | .rol => Sys2Proof.Machine.execRol s
  | .rolc => Sys2Proof.Machine.execRolc s
  | .ror => Sys2Proof.Machine.execRor s
  | .rorc => Sys2Proof.Machine.execRorc s
  | .clr1 d9 b3 => Sys2Proof.Machine.execClr1 d9 b3 s
  | .set1 d9 b3 => Sys2Proof.Machine.execSet1 d9 b3 s
  | .not1 d9 b3 => Sys2Proof.Machine.execNot1 d9 b3 s
  | .ldDir d9 => Sys2Proof.Machine.execLdDir d9 s
  | .ldInd ri => Sys2Proof.Machine.execLdInd ri s
  | .stDir d9 => Sys2Proof.Machine.execStDir d9 s
  | .stInd ri => Sys2Proof.Machine.execStInd ri s
  | .movDir i8 d9 => Sys2Proof.Machine.execMovDir i8 d9 s
  | .movInd i8 ri => Sys2Proof.Machine.execMovInd i8 ri s
  | .ldc => Sys2Proof.Machine.execLdc s
  | .push d9 => Sys2Proof.Machine.execPush d9 s
  | .pop d9 => Sys2Proof.Machine.execPop d9 s
  | .xchDir d9 => Sys2Proof.Machine.execXchDir d9 s
  | .xchInd ri => Sys2Proof.Machine.execXchInd ri s
  | .ldf => Sys2Proof.Machine.execLdf s
  | .stf => Sys2Proof.Machine.execStf s
  | .jmp a12 => Sys2Proof.Machine.execJmp a12 s
  | .jmpf a16 => Sys2Proof.Machine.execJmpf a16 s
  | .br r8 => Sys2Proof.Machine.execBr r8 s
  | .brf r16 => Sys2Proof.Machine.execBrf r16 s
  | .bz r8 => Sys2Proof.Machine.execBz r8 s
  | .bnz r8 => Sys2Proof.Machine.execBnz r8 s
  | .bp d9 b3 r8 => Sys2Proof.Machine.execBp d9 b3 r8 s
  | .bpc d9 b3 r8 => Sys2Proof.Machine.execBpc d9 b3 r8 s
  | .bn d9 b3 r8 => Sys2Proof.Machine.execBn d9 b3 r8 s
  | .dbnzDir d9 r8 => Sys2Proof.Machine.execDbnzDir d9 r8 s
  | .dbnzInd ri r8 => Sys2Proof.Machine.execDbnzInd ri r8 s
  | .beImm i8 r8 => Sys2Proof.Machine.execBeImm i8 r8 s
  | .beDir d9 r8 => Sys2Proof.Machine.execBeDir d9 r8 s
  | .beInd ri i8 r8 => Sys2Proof.Machine.execBeInd ri i8 r8 s
  | .bneImm i8 r8 => Sys2Proof.Machine.execBneImm i8 r8 s
  | .bneDir d9 r8 => Sys2Proof.Machine.execBneDir d9 r8 s
  | .bneInd ri i8 r8 => Sys2Proof.Machine.execBneInd ri i8 r8 s
  | .call a12 => Sys2Proof.Machine.execCall a12 s
  | .callf a16 => Sys2Proof.Machine.execCallf a16 s
  | .callr r16 => Sys2Proof.Machine.execCallr r16 s
  | .ret => Sys2Proof.Machine.execRet s
  | .reti => Sys2Proof.Machine.execReti s
  | .nop => Sys2Proof.Machine.execNop s

end Sys2Proof.Machine
end

