-- ==== Sys2Proof/WellFormed.lean ====
section
/-! DEFINITION. What must hold of operand values. An instruction has nothing to check: its fields carry
their widths, and every value of every field is legal (spec/30_encoding.md R109). The checks are the
assembler's (R114): an operand is written as an expression of any value, and the value must fit its
field. -/

namespace Sys2Proof

/-- Every instruction is well formed (R109): no pattern restricts a field. -/
def Instr.wellFormed (_ : Instr) : Bool := true

/-- The value of an expression fits d9: 0..0x1FF (R114). -/
def fitsD9 (v : Nat) : Bool := decide (v < 512)

/-- The value of an expression fits b3: 0..7 (R114). -/
def fitsB3 (v : Nat) : Bool := decide (v < 8)

/-- The value of an expression fits i8: 8 bits (R114). -/
def fitsI8 (v : Nat) : Bool := decide (v < 256)

/-- The value of an expression fits a16: 16 bits (R114). -/
def fitsA16 (v : Nat) : Bool := decide (v < 65536)

/-- The register number of `@Ri` is one of R0..R3 (R112). -/
def fitsReg (v : Nat) : Bool := decide (v < 4)

/-- The target of jmp or call is a code address whose top four bits are those of next (R102, R114). -/
def fitsPage (next : CodeAddr) (target : Nat) : Bool :=
  fitsA16 target && decide (target / 4096 = next.toNat / 4096)

/-- The target of a short branch is a code address and target - next lies in -128..+127 (R114). -/
def fitsR8 (next : CodeAddr) (target : Nat) : Bool :=
  fitsA16 target && decide (-128 ≤ (target : Int) - next.toNat) && decide ((target : Int) - next.toNat ≤ 127)

end Sys2Proof
end

