-- ==== Sys2Proof/Decode.lean ====
section
/-! DEFINITION. The decoder, total on any bytes, and after it the encoder, both from the encoding tables
of spec/30_encoding.md. Every first byte selects a form (R106, R109), so the only thing a decoder of a
byte list rejects is a list that ends inside the instruction. -/

namespace Sys2Proof

/-! Operand fields (R98 to R105) -/

/-- d9 of the formats DIR, DIR_IMM and DIR_REL8: byte0[0] : byte1 (R98). -/
def d9Direct (b0 b1 : Byte) : DataAddr := b0.extractLsb' 0 1 ++ b1

/-- d9 of the formats BIT and BIT_REL8: byte0[4] : byte1 (R98). -/
def d9Bit (b0 b1 : Byte) : DataAddr := b0.extractLsb' 4 1 ++ b1

/-- b3 = byte0[2:0] (R100). -/
def b3Field (b0 : Byte) : BitVec 3 := b0.extractLsb' 0 3

/-- The number of Ri, byte0[1:0] (R101). -/
def regField (b0 : Byte) : BitVec 2 := b0.extractLsb' 0 2

/-- a12 = byte0[4] : byte0[2:0] : byte1 (R102). -/
def a12Field (b0 b1 : Byte) : BitVec 12 := b0.extractLsb' 4 1 ++ b0.extractLsb' 0 3 ++ b1

/-- a16 = byte1 : byte2, the high byte first (R103). -/
def a16Field (b1 b2 : Byte) : CodeAddr := b1 ++ b2

/-- r16 = byte2 : byte1, the low byte first (R105). -/
def r16Field (b1 b2 : Byte) : BitVec 16 := b2 ++ b1

/-! The opcode map (R106), column by column; `row` is the high nibble of byte0. The last arm of each
column is row F: a nibble has no value above it. -/

/-- The column of R106 with low nibble 0. -/
def decodeLow0 (row : Nat) (b0 b1 b2 : Byte) : Instr :=
  match row with
  | 0x0 => .nop
  | 0x1 => .callr (r16Field b1 b2)
  | 0x2 => .callf (a16Field b1 b2)
  | 0x3 => .mul
  | 0x4 => .div
  | 0x5 => .ldf
  | 0x6 => .push (d9Direct b0 b1)
  | 0x7 => .pop (d9Direct b0 b1)
  | 0x8 => .bz b1
  | 0x9 => .bnz b1
  | 0xA => .ret
  | 0xB => .reti
  | 0xC => .ror
  | 0xD => .rorc
  | 0xE => .rol
  | _ => .rolc

/-- The column of R106 with low nibble 1. -/
def decodeLow1 (row : Nat) (b0 b1 b2 : Byte) : Instr :=
  match row with
  | 0x0 => .br b1
  | 0x1 => .brf (r16Field b1 b2)
  | 0x2 => .jmpf (a16Field b1 b2)
  | 0x3 => .beImm b1 b2
  | 0x4 => .bneImm b1 b2
  | 0x5 => .stf
  | 0x6 => .push (d9Direct b0 b1)
  | 0x7 => .pop (d9Direct b0 b1)
  | 0x8 => .addImm b1
  | 0x9 => .addcImm b1
  | 0xA => .subImm b1
  | 0xB => .subcImm b1
  | 0xC => .ldc
  | 0xD => .orImm b1
  | 0xE => .andImm b1
  | _ => .xorImm b1

/-- The column of R106 with low nibble 2 or 3. -/
def decodeDirect (row : Nat) (b0 b1 b2 : Byte) : Instr :=
  match row with
  | 0x0 => .ldDir (d9Direct b0 b1)
  | 0x1 => .stDir (d9Direct b0 b1)
  | 0x2 => .movDir b2 (d9Direct b0 b1)
  | 0x3 => .beDir (d9Direct b0 b1) b2
  | 0x4 => .bneDir (d9Direct b0 b1) b2
  | 0x5 => .dbnzDir (d9Direct b0 b1) b2
  | 0x6 => .incDir (d9Direct b0 b1)
  | 0x7 => .decDir (d9Direct b0 b1)
  | 0x8 => .addDir (d9Direct b0 b1)
  | 0x9 => .addcDir (d9Direct b0 b1)
  | 0xA => .subDir (d9Direct b0 b1)
  | 0xB => .subcDir (d9Direct b0 b1)
  | 0xC => .xchDir (d9Direct b0 b1)
  | 0xD => .orDir (d9Direct b0 b1)
  | 0xE => .andDir (d9Direct b0 b1)
  | _ => .xorDir (d9Direct b0 b1)

/-- The column of R106 with low nibble 4 to 7. -/
def decodeIndirect (row : Nat) (b0 b1 b2 : Byte) : Instr :=
  match row with
  | 0x0 => .ldInd (regField b0)
  | 0x1 => .stInd (regField b0)
  | 0x2 => .movInd b1 (regField b0)
  | 0x3 => .beInd (regField b0) b1 b2
  | 0x4 => .bneInd (regField b0) b1 b2
  | 0x5 => .dbnzInd (regField b0) b1
  | 0x6 => .incInd (regField b0)
  | 0x7 => .decInd (regField b0)
  | 0x8 => .addInd (regField b0)
  | 0x9 => .addcInd (regField b0)
  | 0xA => .subInd (regField b0)
  | 0xB => .subcInd (regField b0)
  | 0xC => .xchInd (regField b0)
  | 0xD => .orInd (regField b0)
  | 0xE => .andInd (regField b0)
  | _ => .xorInd (regField b0)

/-- The column of R106 with low nibble 8 to F. -/
def decodeHigh (row : Nat) (b0 b1 b2 : Byte) : Instr :=
  match row with
  | 0x0 => .call (a12Field b0 b1)
  | 0x1 => .call (a12Field b0 b1)
  | 0x2 => .jmp (a12Field b0 b1)
  | 0x3 => .jmp (a12Field b0 b1)
  | 0x4 => .bpc (d9Bit b0 b1) (b3Field b0) b2
  | 0x5 => .bpc (d9Bit b0 b1) (b3Field b0) b2
  | 0x6 => .bp (d9Bit b0 b1) (b3Field b0) b2
  | 0x7 => .bp (d9Bit b0 b1) (b3Field b0) b2
  | 0x8 => .bn (d9Bit b0 b1) (b3Field b0) b2
  | 0x9 => .bn (d9Bit b0 b1) (b3Field b0) b2
  | 0xA => .not1 (d9Bit b0 b1) (b3Field b0)
  | 0xB => .not1 (d9Bit b0 b1) (b3Field b0)
  | 0xC => .clr1 (d9Bit b0 b1) (b3Field b0)
  | 0xD => .clr1 (d9Bit b0 b1) (b3Field b0)
  | 0xE => .set1 (d9Bit b0 b1) (b3Field b0)
  | _ => .set1 (d9Bit b0 b1) (b3Field b0)

/-- The instruction whose bytes are b0, b1 and b2: byte0 alone selects the form (R80, R106); b1 and b2
are read as far as the form has them. -/
def decode3 (b0 b1 b2 : Byte) : Instr :=
  let row := b0.toNat / 16
  let low := b0.toNat % 16
  if low = 0 then decodeLow0 row b0 b1 b2
  else if low = 1 then decodeLow1 row b0 b1 b2
  else if low < 4 then decodeDirect row b0 b1 b2
  else if low < 8 then decodeIndirect row b0 b1 b2
  else decodeHigh row b0 b1 b2

/-! The encoder, from the formats R82 to R97 and the patterns of R107 -/

/-- byte0 of the formats DIR, DIR_IMM and DIR_REL8: op[6:0], d9[8] (R84, R87, R94). -/
def dirByte0 (op : BitVec 7) (d9 : DataAddr) : Byte := op ++ d9.extractLsb' 8 1

/-- byte0 of the formats IND, IND_IMM, IND_REL8 and IND_IMM_REL8: op[5:0], i[1:0] (R85, R88, R95, R97). -/
def indByte0 (op : BitVec 6) (i : BitVec 2) : Byte := op ++ i

/-- byte0 of the formats BIT and BIT_REL8: op[2:0], d9[8], 1, b3[2:0] (R86, R93). -/
def bitByte0 (op : BitVec 3) (d9 : DataAddr) (b3 : BitVec 3) : Byte := op ++ d9.extractLsb' 8 1 ++ 1#1 ++ b3

/-- byte0 of the format ABS12: op[2:0], a12[11], 1, a12[10:8] (R89). -/
def abs12Byte0 (op : BitVec 3) (a12 : BitVec 12) : Byte := op ++ a12.extractLsb' 11 1 ++ 1#1 ++ a12.extractLsb' 8 3

/-- Bits 7..0 of a field, and bits 15..8 of a 16-bit one. -/
def lowByte {n : Nat} (v : BitVec n) : Byte := v.extractLsb' 0 8
/-- Bits 15..8 of a 16-bit field. -/
def highByte (v : BitVec 16) : Byte := v.extractLsb' 8 8

/-- The bytes of an instruction, byte0 first (R80, R107). -/
def encode : Instr → List Byte
  | .addImm i8 => [0x81#8, i8]
  | .addDir d9 => [dirByte0 0b1000001#7 d9, lowByte d9]
  | .addInd i => [indByte0 0b100001#6 i]
  | .addcImm i8 => [0x91#8, i8]
  | .addcDir d9 => [dirByte0 0b1001001#7 d9, lowByte d9]
  | .addcInd i => [indByte0 0b100101#6 i]
  | .subImm i8 => [0xA1#8, i8]
  | .subDir d9 => [dirByte0 0b1010001#7 d9, lowByte d9]
  | .subInd i => [indByte0 0b101001#6 i]
  | .subcImm i8 => [0xB1#8, i8]
  | .subcDir d9 => [dirByte0 0b1011001#7 d9, lowByte d9]
  | .subcInd i => [indByte0 0b101101#6 i]
  | .incDir d9 => [dirByte0 0b0110001#7 d9, lowByte d9]
  | .incInd i => [indByte0 0b011001#6 i]
  | .decDir d9 => [dirByte0 0b0111001#7 d9, lowByte d9]
  | .decInd i => [indByte0 0b011101#6 i]
  | .mul => [0x30#8]
  | .div => [0x40#8]
  | .andImm i8 => [0xE1#8, i8]
  | .andDir d9 => [dirByte0 0b1110001#7 d9, lowByte d9]
  | .andInd i => [indByte0 0b111001#6 i]
  | .orImm i8 => [0xD1#8, i8]
  | .orDir d9 => [dirByte0 0b1101001#7 d9, lowByte d9]
  | .orInd i => [indByte0 0b110101#6 i]
  | .xorImm i8 => [0xF1#8, i8]
  | .xorDir d9 => [dirByte0 0b1111001#7 d9, lowByte d9]
  | .xorInd i => [indByte0 0b111101#6 i]
  | .rol => [0xE0#8]
  | .rolc => [0xF0#8]
  | .ror => [0xC0#8]
  | .rorc => [0xD0#8]
  | .clr1 d9 b3 => [bitByte0 0b110#3 d9 b3, lowByte d9]
  | .set1 d9 b3 => [bitByte0 0b111#3 d9 b3, lowByte d9]
  | .not1 d9 b3 => [bitByte0 0b101#3 d9 b3, lowByte d9]
  | .ldDir d9 => [dirByte0 0b0000001#7 d9, lowByte d9]
  | .ldInd i => [indByte0 0b000001#6 i]
  | .stDir d9 => [dirByte0 0b0001001#7 d9, lowByte d9]
  | .stInd i => [indByte0 0b000101#6 i]
  | .movDir i8 d9 => [dirByte0 0b0010001#7 d9, lowByte d9, i8]
  | .movInd i8 i => [indByte0 0b001001#6 i, i8]
  | .ldc => [0xC1#8]
  | .push d9 => [dirByte0 0b0110000#7 d9, lowByte d9]
  | .pop d9 => [dirByte0 0b0111000#7 d9, lowByte d9]
  | .xchDir d9 => [dirByte0 0b1100001#7 d9, lowByte d9]
  | .xchInd i => [indByte0 0b110001#6 i]
  | .ldf => [0x50#8]
  | .stf => [0x51#8]
  | .jmp a12 => [abs12Byte0 0b001#3 a12, lowByte a12]
  | .jmpf a16 => [0x21#8, highByte a16, lowByte a16]
  | .br r8 => [0x01#8, r8]
  | .brf r16 => [0x11#8, lowByte r16, highByte r16]
  | .bz r8 => [0x80#8, r8]
  | .bnz r8 => [0x90#8, r8]
  | .bp d9 b3 r8 => [bitByte0 0b011#3 d9 b3, lowByte d9, r8]
  | .bpc d9 b3 r8 => [bitByte0 0b010#3 d9 b3, lowByte d9, r8]
  | .bn d9 b3 r8 => [bitByte0 0b100#3 d9 b3, lowByte d9, r8]
  | .dbnzDir d9 r8 => [dirByte0 0b0101001#7 d9, lowByte d9, r8]
  | .dbnzInd i r8 => [indByte0 0b010101#6 i, r8]
  | .beImm i8 r8 => [0x31#8, i8, r8]
  | .beDir d9 r8 => [dirByte0 0b0011001#7 d9, lowByte d9, r8]
  | .beInd i i8 r8 => [indByte0 0b001101#6 i, i8, r8]
  | .bneImm i8 r8 => [0x41#8, i8, r8]
  | .bneDir d9 r8 => [dirByte0 0b0100001#7 d9, lowByte d9, r8]
  | .bneInd i i8 r8 => [indByte0 0b010001#6 i, i8, r8]
  | .call a12 => [abs12Byte0 0b000#3 a12, lowByte a12]
  | .callf a16 => [0x20#8, highByte a16, lowByte a16]
  | .callr r16 => [0x10#8, lowByte r16, highByte r16]
  | .ret => [0xA0#8]
  | .reti => [0xB0#8]
  | .nop => [0x00#8]

/-- The length in bytes of an instruction (R81). -/
def Instr.length (i : Instr) : Nat := (encode i).length

/-- The length that byte0 gives (R81): that of the form it selects. -/
def firstByteLength (b0 : Byte) : Nat := (decode3 b0 0 0).length

/-! Byte lists -/

/-- Why a byte list is rejected: only that it ends inside the instruction (R109). -/
inductive DecodeError where
  /-- the list is empty, or shorter than the length its first byte gives -/
  | truncated
  deriving DecidableEq, Repr

/-- Reads one instruction off a byte list and answers it with the bytes after it (R81). -/
def decode : List Byte → Except DecodeError (Instr × List Byte)
  | [] => .error .truncated
  | b0 :: rest =>
    if rest.length + 1 < firstByteLength b0 then .error .truncated
    else .ok (decode3 b0 (rest.getD 0 0) (rest.getD 1 0), rest.drop (firstByteLength b0 - 1))

/-! Words numbered as spec/opcode_table.json numbers them -/

/-- The bytes of a number, the most significant first. -/
def bytesMsbFirst (n w : Nat) : List Byte :=
  ((List.range n).map fun k => BitVec.ofNat 8 (w / 256 ^ k)).reverse

/-- The instruction bytes of a word of the opcode table, in the order they lie in ROM space. The table
reads a pattern as one number, so byte0 is its MOST significant byte (`add #i8` is 0x8100 under the mask
0xFF00; spec/98_reader.md). A word whose most significant byte selects a form too short to fill it is no
word of that numbering; it is read with byte0 least significant (log 13). -/
def tableBytes (nbits w : Nat) : List Byte :=
  let n := (nbits + 7) / 8
  let bytes := bytesMsbFirst n w
  if firstByteLength (bytes.getD 0 0) < n then bytes.reverse else bytes

/-- The instruction the decoder reads from a word of the opcode table, the bits above nbits zero. -/
def decodeTableWord (nbits w : Nat) : Option Instr :=
  match decode (tableBytes nbits w ++ [0, 0]) with
  | .ok (i, _) => some i
  | .error _ => none

end Sys2Proof
end

