-- ==== Sys2Proof/Machine/Fetch.lean ====
section
/-! DEFINITION. Instruction fetch (spec/20_memory.md R56, spec/70_reset_and_hazards.md R321) and what the
interrupt agent does at an instruction boundary (spec/60_exceptions.md R284, R285, R288). -/

namespace Sys2Proof.Machine

/-- The instruction at pc. Its bytes wrap at 0xFFFF (R56, R321). -/
def State.fetch (s : State) : Instr := decode3 (s.romRead s.pc) (s.romRead (s.pc + 1)) (s.romRead (s.pc + 2))

/-- The request taken at this boundary: the agent acts only while int_hold is 0 (R285), and requests only a
source of IntSources (R284). While int_hold is 1 the agent holds what it would request (R288). -/
def State.accepted (s : State) : Option IntSource :=
  if s.intHold then none
  else
    match s.requests with
    | some src :: _ => if src ∈ s.intSources then some src else none
    | _ => none

/-- The state once the agent has acted at this boundary: its schedule moves on by one entry, unless
int_hold is 1 (R285, R288). -/
def State.afterBoundary (s : State) : State :=
  if s.intHold then s else { s with requests := s.requests.tail }

/-- ROM space with the bytes placed at rising addresses from a, modulo 65536 (R80). -/
def placeBytes : List Host.Cell → CodeAddr → List Byte → List Host.Cell
  | rom, _, [] => rom
  | rom, a, v :: rest => placeBytes (Memory.write rom a.toNat v) (a + 1) rest

/-- The state with the instruction of a word of the opcode table, as three bytes, at pc in ROM space, and
with nothing left in the interrupt agent's schedule. -/
def State.placeWord (s : State) (nbits w : Nat) : State :=
  { s with rom := placeBytes s.rom s.pc ((tableBytes nbits w ++ [0, 0, 0]).take 3), requests := [] }

end Sys2Proof.Machine
end

