-- ==== Sys2Proof/Machine/Step.lean ====
section
/-! DEFINITION. One step of the machine, and the placing of a word where the next step fetches. -/

namespace Sys2Proof.Machine

/-- One step from an instruction boundary: the interrupt agent's accepted request is entered (R286), or,
if there is none, the instruction at pc runs to completion (R285). -/
def step (s : State) : Host.Outcome State Fault Refusal :=
  match s.accepted with
  | some src => enterInterrupt src.vector s.afterBoundary
  | none => exec s.fetch s.afterBoundary

/-- The state with the instruction of a word of the opcode table in ROM space at pc, the bits above nbits
zero, and with no interrupt request pending, so that the next step runs it (log 3, log 13). -/
def State.withFetchWord (s : State) (nbits w : Nat) : State := s.placeWord nbits w

end Sys2Proof.Machine
end

