-- ==== Sys2Proof/Machine/Assembler.lean ====
section
/-! DEFINITION. What the assembler computes (spec/30_encoding.md R111, R112, R114, R115, R117): a line is a
mnemonic and 0 to 3 arguments; the mnemonic with the syntax type of each argument selects the form, and the
values of the argument expressions give the fields, where they fit. Text, symbols and expressions (R113)
are left out: an argument is given by its value (log 14). -/

namespace Sys2Proof

/-- The 45 mnemonics, in the order of R117. -/
inductive Mnemonic where
  | add | addc | sub | subc | inc | dec | mul | div | and | or
  | xor | rol | rolc | ror | rorc | clr1 | set1 | not1 | ld | st
  | mov | ldc | push | pop | xch | ldf | stf | jmp | jmpf | br
  | brf | bz | bnz | bp | bpc | bn | dbnz | be | bne | call
  | callf | callr | ret | reti | nop
  deriving DecidableEq, Repr

/-- An argument: its syntax type and the value of its expression (R112). -/
inductive Arg where
  /-- a plain expression: d9, b3, or the target of a12, a16, r8, r16 -/
  | direct (v : Nat)
  /-- `#` and an expression: i8 -/
  | immediate (v : Nat)
  /-- `@R0` to `@R3`, by number -/
  | indirect (v : Nat)
  deriving DecidableEq, Repr

/-! Fields from values (R114) -/

/-- d9 of a value that fits it. -/
def asmD9 (v : Nat) : Option DataAddr := if fitsD9 v then some (BitVec.ofNat 9 v) else none
/-- b3 of a value that fits it. -/
def asmB3 (v : Nat) : Option (BitVec 3) := if fitsB3 v then some (BitVec.ofNat 3 v) else none
/-- i8 of a value that fits it. -/
def asmI8 (v : Nat) : Option Byte := if fitsI8 v then some (BitVec.ofNat 8 v) else none
/-- The number of Ri. -/
def asmReg (v : Nat) : Option (BitVec 2) := if fitsReg v then some (BitVec.ofNat 2 v) else none
/-- a16 of a target. -/
def asmA16 (t : Nat) : Option CodeAddr := if fitsA16 t then some (BitVec.ofNat 16 t) else none
/-- a12: the low 12 bits of a target in the page of next. -/
def asmA12 (next : CodeAddr) (t : Nat) : Option (BitVec 12) :=
  if fitsPage next t then some (BitVec.ofNat 12 t) else none
/-- r8: the low 8 bits of target - next, which must lie in -128..+127. -/
def asmR8 (next : CodeAddr) (t : Nat) : Option Byte :=
  if fitsR8 next t then some (BitVec.ofInt 8 ((t : Int) - next.toNat)) else none
/-- r16: (target - (next - 1)) mod 65536. -/
def asmR16 (next : CodeAddr) (t : Nat) : Option (BitVec 16) :=
  if fitsA16 t then some (BitVec.ofInt 16 ((t : Int) - (next.toNat - 1))) else none

/-! Forms by the syntax types of the arguments (R114) -/

/-- A mnemonic without arguments. -/
def asmPlain (i : Instr) : List Arg → Option Instr
  | [] => some i
  | _ => none

/-- A mnemonic with the forms d9 and @Ri. -/
def asmMem (dir : DataAddr → Instr) (ind : BitVec 2 → Instr) : List Arg → Option Instr
  | [.direct v] => (asmD9 v).map dir
  | [.indirect v] => (asmReg v).map ind
  | _ => none

/-- A mnemonic with the forms #i8, d9 and @Ri. -/
def asmSrc (imm : Byte → Instr) (dir : DataAddr → Instr) (ind : BitVec 2 → Instr) : List Arg → Option Instr
  | [.immediate v] => (asmI8 v).map imm
  | args => asmMem dir ind args

/-- A mnemonic with the form d9. -/
def asmDir (f : DataAddr → Instr) : List Arg → Option Instr
  | [.direct v] => (asmD9 v).map f
  | _ => none

/-- A mnemonic with the form d9, b3. -/
def asmBit (f : DataAddr → BitVec 3 → Instr) : List Arg → Option Instr
  | [.direct v, .direct b] => (asmD9 v).bind fun d9 => (asmB3 b).map (f d9)
  | _ => none

/-- A mnemonic with one code address. -/
def asmTarget {α : Type} (field : Nat → Option α) (f : α → Instr) : List Arg → Option Instr
  | [.direct t] => (field t).map f
  | _ => none

/-- A mnemonic with the form d9, b3, r8, three bytes long. -/
def asmBitRel (addr : CodeAddr) (f : DataAddr → BitVec 3 → Byte → Instr) : List Arg → Option Instr
  | [.direct v, .direct b, .direct t] =>
    (asmD9 v).bind fun d9 => (asmB3 b).bind fun b3 => (asmR8 (addr + 3) t).map (f d9 b3)
  | _ => none

/-- be and bne: the forms #i8, r8 and d9, r8 and @Ri, #i8, r8, three bytes long each. -/
def asmCompare (addr : CodeAddr) (imm : Byte → Byte → Instr) (dir : DataAddr → Byte → Instr)
    (ind : BitVec 2 → Byte → Byte → Instr) : List Arg → Option Instr
  | [.immediate v, .direct t] => (asmI8 v).bind fun i8 => (asmR8 (addr + 3) t).map (imm i8)
  | [.direct v, .direct t] => (asmD9 v).bind fun d9 => (asmR8 (addr + 3) t).map (dir d9)
  | [.indirect r, .immediate v, .direct t] =>
    (asmReg r).bind fun i => (asmI8 v).bind fun i8 => (asmR8 (addr + 3) t).map (ind i i8)
  | _ => none

/-- mov: the forms #i8, d9 and #i8, @Ri; the constant is written first (R115). -/
def asmMov : List Arg → Option Instr
  | [.immediate v, .direct a] => (asmI8 v).bind fun i8 => (asmD9 a).map (Instr.movDir i8)
  | [.immediate v, .indirect r] => (asmI8 v).bind fun i8 => (asmReg r).map (Instr.movInd i8)
  | _ => none

/-- dbnz: the form d9, r8 of three bytes and @Ri, r8 of two. -/
def asmDbnz (addr : CodeAddr) : List Arg → Option Instr
  | [.direct v, .direct t] => (asmD9 v).bind fun d9 => (asmR8 (addr + 3) t).map (Instr.dbnzDir d9)
  | [.indirect r, .direct t] => (asmReg r).bind fun i => (asmR8 (addr + 2) t).map (Instr.dbnzInd i)
  | _ => none

/-- The instruction of a line placed at addr: none where no form of the mnemonic has these arguments or a
value does not fit (R114). -/
def assemble (addr : CodeAddr) (m : Mnemonic) (args : List Arg) : Option Instr :=
  match m with
  | .add => asmSrc .addImm .addDir .addInd args
  | .addc => asmSrc .addcImm .addcDir .addcInd args
  | .sub => asmSrc .subImm .subDir .subInd args
  | .subc => asmSrc .subcImm .subcDir .subcInd args
  | .inc => asmMem .incDir .incInd args
  | .dec => asmMem .decDir .decInd args
  | .mul => asmPlain .mul args
  | .div => asmPlain .div args
  | .and => asmSrc .andImm .andDir .andInd args
  | .or => asmSrc .orImm .orDir .orInd args
  | .xor => asmSrc .xorImm .xorDir .xorInd args
  | .rol => asmPlain .rol args
  | .rolc => asmPlain .rolc args
  | .ror => asmPlain .ror args
  | .rorc => asmPlain .rorc args
  | .clr1 => asmBit .clr1 args
  | .set1 => asmBit .set1 args
  | .not1 => asmBit .not1 args
  | .ld => asmMem .ldDir .ldInd args
  | .st => asmMem .stDir .stInd args
  | .mov => asmMov args
  | .ldc => asmPlain .ldc args
  | .push => asmDir .push args
  | .pop => asmDir .pop args
  | .xch => asmMem .xchDir .xchInd args
  | .ldf => asmPlain .ldf args
  | .stf => asmPlain .stf args
  | .jmp => asmTarget (asmA12 (addr + 2)) .jmp args
  | .jmpf => asmTarget asmA16 .jmpf args
  | .br => asmTarget (asmR8 (addr + 2)) .br args
  | .brf => asmTarget (asmR16 (addr + 3)) .brf args
  | .bz => asmTarget (asmR8 (addr + 2)) .bz args
  | .bnz => asmTarget (asmR8 (addr + 2)) .bnz args
  | .bp => asmBitRel addr .bp args
  | .bpc => asmBitRel addr .bpc args
  | .bn => asmBitRel addr .bn args
  | .dbnz => asmDbnz addr args
  | .be => asmCompare addr .beImm .beDir .beInd args
  | .bne => asmCompare addr .bneImm .bneDir .bneInd args
  | .call => asmTarget (asmA12 (addr + 2)) .call args
  | .callf => asmTarget asmA16 .callf args
  | .callr => asmTarget (asmR16 (addr + 3)) .callr args
  | .ret => asmPlain .ret args
  | .reti => asmPlain .reti args
  | .nop => asmPlain .nop args

end Sys2Proof
end

