-- ==== Sys2Proof/Safety.lean ====
section
/-! DEFINITION. What statements say of runs: the end of a run (spec/70_reset_and_hazards.md R320), and the
cells and flags an instruction may write (spec/10_state.md R32, R37). -/

namespace Sys2Proof.Machine

/-- A run is over when pc is in HaltSet, a set of ROM addresses that whoever states a claim supplies
(R320). -/
def State.halted (haltSet : List CodeAddr) (s : State) : Bool := decide (s.pc ∈ haltSet)

/-- The cell that holds Push's byte when sp is one more, or two more, than it is (R58). -/
def State.pushCell (s : State) (n : Nat) : DataAddr := stackCell (s.sp + BitVec.ofNat 8 n)

/-- The data cells that the rule of an instruction writes in a state (R37): no other cell changes. -/
def writtenCells (i : Instr) (s : State) : List DataAddr :=
  match i with
  | .addImm _ | .addDir _ | .addInd _ | .addcImm _ | .addcDir _ | .addcInd _
  | .subImm _ | .subDir _ | .subInd _ | .subcImm _ | .subcDir _ | .subcInd _
  | .rolc | .rorc => [s.params.addrAcc, s.params.addrPsw]
  | .mul | .div => [s.params.addrAcc, s.params.addrB, s.params.addrC, s.params.addrPsw]
  | .andImm _ | .andDir _ | .andInd _ | .orImm _ | .orDir _ | .orInd _
  | .xorImm _ | .xorDir _ | .xorInd _ | .rol | .ror | .ldDir _ | .ldInd _ | .ldc => [s.params.addrAcc]
  | .incDir d9 | .decDir d9 | .clr1 d9 _ | .set1 d9 _ | .not1 d9 _ | .stDir d9 | .movDir _ d9
  | .dbnzDir d9 _ => [d9]
  | .bpc d9 b3 _ => if (s.cell d9).getLsbD b3.toNat then [d9] else []
  | .incInd i | .decInd i | .stInd i | .movInd _ i | .dbnzInd i _ => [s.ea i]
  | .xchDir d9 => [d9, s.params.addrAcc]
  | .xchInd i => [s.ea i, s.params.addrAcc]
  | .push _ => [s.params.addrSp, s.pushCell 1]
  | .pop d9 => [d9, s.params.addrSp]
  | .call _ | .callf _ | .callr _ => [s.params.addrSp, s.pushCell 1, s.pushCell 2]
  | .ret | .reti => [s.params.addrSp]
  | .beImm _ _ | .beDir _ _ | .beInd _ _ _ | .bneImm _ _ | .bneDir _ _ | .bneInd _ _ _ => [s.params.addrPsw]
  | .ldf | .stf | .jmp _ | .jmpf _ | .br _ | .brf _ | .bz _ | .bnz _ | .bp _ _ _ | .bn _ _ _ | .nop => []

/-- The instructions whose own rule writes cy (R32). -/
def writesCy : Instr → Bool
  | .addImm _ | .addDir _ | .addInd _ | .addcImm _ | .addcDir _ | .addcInd _
  | .subImm _ | .subDir _ | .subInd _ | .subcImm _ | .subcDir _ | .subcInd _
  | .mul | .div | .rolc | .rorc
  | .beImm _ _ | .beDir _ _ | .beInd _ _ _ | .bneImm _ _ | .bneDir _ _ | .bneInd _ _ _ => true
  | .incDir _ | .incInd _ | .decDir _ | .decInd _ | .andImm _ | .andDir _ | .andInd _ | .orImm _ | .orDir _
  | .orInd _ | .xorImm _ | .xorDir _ | .xorInd _ | .rol | .ror | .clr1 _ _ | .set1 _ _ | .not1 _ _
  | .ldDir _ | .ldInd _ | .stDir _ | .stInd _ | .movDir _ _ | .movInd _ _ | .ldc | .push _ | .pop _
  | .xchDir _ | .xchInd _ | .ldf | .stf | .jmp _ | .jmpf _ | .br _ | .brf _ | .bz _ | .bnz _ | .bp _ _ _
  | .bpc _ _ _ | .bn _ _ _ | .dbnzDir _ _ | .dbnzInd _ _ | .call _ | .callf _ | .callr _ | .ret | .reti
  | .nop => false

/-- The instructions whose own rule writes ac (R32). -/
def writesAc : Instr → Bool
  | .addImm _ | .addDir _ | .addInd _ | .addcImm _ | .addcDir _ | .addcInd _
  | .subImm _ | .subDir _ | .subInd _ | .subcImm _ | .subcDir _ | .subcInd _ => true
  | .mul | .div | .rolc | .rorc
  | .beImm _ _ | .beDir _ _ | .beInd _ _ _ | .bneImm _ _ | .bneDir _ _ | .bneInd _ _ _
  | .incDir _ | .incInd _ | .decDir _ | .decInd _ | .andImm _ | .andDir _ | .andInd _ | .orImm _ | .orDir _
  | .orInd _ | .xorImm _ | .xorDir _ | .xorInd _ | .rol | .ror | .clr1 _ _ | .set1 _ _ | .not1 _ _
  | .ldDir _ | .ldInd _ | .stDir _ | .stInd _ | .movDir _ _ | .movInd _ _ | .ldc | .push _ | .pop _
  | .xchDir _ | .xchInd _ | .ldf | .stf | .jmp _ | .jmpf _ | .br _ | .brf _ | .bz _ | .bnz _ | .bp _ _ _
  | .bpc _ _ _ | .bn _ _ _ | .dbnzDir _ _ | .dbnzInd _ _ | .call _ | .callf _ | .callr _ | .ret | .reti
  | .nop => false

/-- The instructions whose own rule writes ov (R32): those that write ac, and mul and div. -/
def writesOv (i : Instr) : Bool := writesAc i || decide (i = .mul) || decide (i = .div)

/-- The cells to which an instruction stores data (R37's "store", and the bytes it pushes), as against the
registers its rule names: where one of them is the psw cell, flags change as data. -/
def storedCells (i : Instr) (s : State) : List DataAddr :=
  match i with
  | .incDir d9 | .decDir d9 | .clr1 d9 _ | .set1 d9 _ | .not1 d9 _ | .stDir d9 | .movDir _ d9
  | .dbnzDir d9 _ | .bpc d9 _ _ | .xchDir d9 | .pop d9 => [d9]
  | .incInd i | .decInd i | .stInd i | .movInd _ i | .dbnzInd i _ | .xchInd i => [s.ea i]
  | .push _ => [s.pushCell 1]
  | .call _ | .callf _ | .callr _ => [s.pushCell 1, s.pushCell 2]
  | .addImm _ | .addDir _ | .addInd _ | .addcImm _ | .addcDir _ | .addcInd _
  | .subImm _ | .subDir _ | .subInd _ | .subcImm _ | .subcDir _ | .subcInd _ | .mul | .div
  | .andImm _ | .andDir _ | .andInd _ | .orImm _ | .orDir _ | .orInd _ | .xorImm _ | .xorDir _ | .xorInd _
  | .rol | .rolc | .ror | .rorc | .ldDir _ | .ldInd _ | .ldc | .ldf | .stf
  | .jmp _ | .jmpf _ | .br _ | .brf _ | .bz _ | .bnz _ | .bp _ _ _ | .bn _ _ _
  | .beImm _ _ | .beDir _ _ | .beInd _ _ _ | .bneImm _ _ | .bneDir _ _ | .bneInd _ _ _
  | .ret | .reti | .nop => []

/-- The data cells that an instruction reaches through MemRead, MemWrite, Push and Pop, in the order of its
pseudocode (R64, R13). Registers named by a rule, and the pointer cells read by EA, are not among them: their
accesses are never refused (R55). -/
def accessedCells (i : Instr) (s : State) : List DataAddr :=
  match i with
  | .addDir d9 | .addcDir d9 | .subDir d9 | .subcDir d9 | .andDir d9 | .orDir d9 | .xorDir d9
  | .incDir d9 | .decDir d9 | .clr1 d9 _ | .set1 d9 _ | .not1 d9 _ | .ldDir d9 | .stDir d9 | .movDir _ d9
  | .xchDir d9 | .bp d9 _ _ | .bpc d9 _ _ | .bn d9 _ _ | .dbnzDir d9 _ | .beDir d9 _ | .bneDir d9 _ => [d9]
  | .addInd r | .addcInd r | .subInd r | .subcInd r | .andInd r | .orInd r | .xorInd r | .incInd r | .decInd r
  | .ldInd r | .stInd r | .movInd _ r | .xchInd r | .dbnzInd r _ | .beInd r _ _ | .bneInd r _ _ => [s.ea r]
  | .push d9 => [d9, s.pushCell 1]
  | .pop d9 => [stackCell s.sp, d9]
  | .call _ | .callf _ | .callr _ => [s.pushCell 1, s.pushCell 2]
  | .ret | .reti => [stackCell s.sp, stackCell (s.sp - 1)]
  | .addImm _ | .addcImm _ | .subImm _ | .subcImm _ | .andImm _ | .orImm _ | .xorImm _ | .mul | .div | .rol
  | .rolc | .ror | .rorc | .ldc | .ldf | .stf | .jmp _ | .jmpf _ | .br _ | .brf _ | .bz _ | .bnz _
  | .beImm _ _ | .bneImm _ _ | .nop => []

end Sys2Proof.Machine
end

