-- ==== Sys2Proof/Certificates/Slice0/Obligations.lean ====
section
/-! DEFINITION. The statements for the provers. Each docstring names the rules of spec/ it formalises, or the
spec's own decision (D<n> of spec/92_eei_decisions.md) or the log entry it rests on. Every statement ranges
over the parameters of R7, which are part of the state. Where one needs it, its premise s.laidOut says that
they are laid out as the spec's machine has them: registers and flags pairwise distinct (R7), no register
among the stack's cells (R58), the data space flat (R51). StepKeepsLayout says that every step keeps it and
ResetParameters that the reset state has it. -/

namespace Sys2Proof.Claims

open Sys2Proof.Machine

/-! The words of the statements -/

/-- i is a form of a mnemonic with the forms #i8, d9 and @Ri, and in s its operand can be read and is v
(R73). -/
def SrcForm (imm : Byte → Instr) (dir : DataAddr → Instr) (ind : BitVec 2 → Instr) (s : State) (i : Instr)
    (v : Byte) : Prop :=
  i = imm v ∨
    (∃ d9, i = dir d9 ∧ s.isDevice d9 = false ∧ v = s.cell d9) ∨
    (∃ r, i = ind r ∧ s.isDevice (s.ea r) = false ∧ v = s.cell (s.ea r))

/-- i is a form of a mnemonic with the forms d9 and @Ri, and in s its operand is the cell a, which is no
device (R74). -/
def LocForm (dir : DataAddr → Instr) (ind : BitVec 2 → Instr) (s : State) (i : Instr) (a : DataAddr) : Prop :=
  s.isDevice a = false ∧ (i = dir a ∨ ∃ r, i = ind r ∧ a = s.ea r)

/-- The bytes of an instruction and the source's cycle count of its form (R107, R330). -/
def HasForm (i : Instr) (bytes : List Byte) (cycles : Nat) : Prop := encode i = bytes ∧ i.cycles = some cycles

/-- No data cell but those named changes: not one of the other addresses' cells, and none that only a BankMap
can name. -/
def CellsKept (cells : List DataAddr) (s t : State) : Prop :=
  (∀ a, a ∉ cells → t.cell a = s.cell a) ∧ ∀ p : PhysCell, 512 ≤ p.toNat → t.phys p = s.phys p

/-- Every byte of ROM space, the parameters of the run and the schedule of requests are as before. -/
def RunKept (s t : State) : Prop :=
  (∀ a, t.romRead a = s.romRead a) ∧ t.params = s.params ∧ t.deviceCells = s.deviceCells ∧
    t.intSources = s.intSources ∧ t.requests = s.requests

/-- Everything but pc, int_hold and the cells named is as before. -/
def KeepsCells (cells : List DataAddr) (s t : State) : Prop := CellsKept cells s t ∧ RunKept s t

/-- Everything but pc and the cells named is as before. -/
def Keeps (cells : List DataAddr) (s t : State) : Prop := KeepsCells cells s t ∧ t.intHold = s.intHold

/-- The bits of psw but those named are as before. -/
def PswKeeps (bits : List Nat) (s t : State) : Prop :=
  ∀ n, n ∉ bits → t.psw.getLsbD n = s.psw.getLsbD n

/-- pc is at the address after the instruction, modulo 65536 (R31). -/
def PcAdvances (i : Instr) (s t : State) : Prop := t.pc.toNat = (s.pc.toNat + i.length) % 65536

/-- The target of a short branch: the address after the instruction plus r8 as a two's-complement number,
modulo 65536 (R104). -/
def ShortTarget (i : Instr) (r8 : Byte) (s : State) : Int :=
  (((s.pc.toNat + i.length : Nat) : Int) + r8.toInt) % 65536

/-- pc after a short branch of i by r8 whose condition is c. -/
def Branches (c : Bool) (i : Instr) (r8 : Byte) (s t : State) : Prop :=
  if c then (t.pc.toNat : Int) = ShortTarget i r8 s else PcAdvances i s t

/-- A sum or difference lies outside -128..+127 (R128). -/
def SignedOverflow (x : Int) : Bool := decide (x < -128 ∨ 127 < x)

end Sys2Proof.Claims

open Sys2Proof Sys2Proof.Machine Sys2Proof.Claims

/-! Encoding -/

/-- Decoding an encoded instruction gives it back with the bytes after it, for every operand value
(R80 to R107). -/
def Obligations.DecodeGivesBackEncoded : Prop :=
  ∀ (i : Instr) (rest : List Byte), decode (encode i ++ rest) = .ok (i, rest)

/-- Any three bytes decode, and encoding what they decode to gives back the bytes of the instruction: every
byte string is an encoding of exactly one instruction (R109, R110). -/
def Obligations.EncodeGivesBackDecoded : Prop :=
  ∀ b0 b1 b2 : Byte, encode (decode3 b0 b1 b2) = [b0, b1, b2].take (firstByteLength b0)

/-- The length table of R81: the byte0 values of length 1 and of length 3; every other value has length 2. -/
def Obligations.FirstByteGivesLength : Prop :=
  ∀ b0 : Byte, firstByteLength b0 =
    (let n := b0.toNat
     if n ∈ [0x00, 0x30, 0x40, 0x50, 0x51, 0xA0, 0xB0, 0xC0, 0xC1, 0xD0, 0xE0, 0xF0] ∨
        (n % 16 / 4 = 1 ∧ n / 16 ∈ [0x0, 0x1, 0x6, 0x7, 0x8, 0x9, 0xA, 0xB, 0xC, 0xD, 0xE, 0xF]) then 1
     else if n ∈ [0x10, 0x11, 0x31, 0x41] ∨ (0x20 ≤ n ∧ n ≤ 0x23) ∨ (0x32 ≤ n ∧ n ≤ 0x37) ∨
        (0x42 ≤ n ∧ n ≤ 0x4F) ∨ (0x52 ≤ n ∧ n ≤ 0x53) ∨ (0x58 ≤ n ∧ n ≤ 0x5F) ∨ (0x68 ≤ n ∧ n ≤ 0x6F) ∨
        (0x78 ≤ n ∧ n ≤ 0x7F) ∨ (0x88 ≤ n ∧ n ≤ 0x8F) ∨ (0x98 ≤ n ∧ n ≤ 0x9F) then 3
     else 2)

/-- byte0 alone selects the form, and so the length: no later byte affects it (R80). -/
def Obligations.FirstByteSelectsForm : Prop :=
  ∀ b0 b1 b2 c1 c2 : Byte,
    (decode3 b0 b1 b2).ctorIdx = (decode3 b0 c1 c2).ctorIdx ∧
      (decode3 b0 b1 b2).length = firstByteLength b0

/-- One word of each format, with the operands spec/95_test_vectors.md 2.1 says a decoder must recover. -/
def Obligations.SampleWordsDecode : Prop :=
  decode [0x30] = .ok (.mul, []) ∧
  decode [0x81, 0x45] = .ok (.addImm 0x45, []) ∧
  decode [0x83, 0x45] = .ok (.addDir 0x145, []) ∧
  decode [0xB6] = .ok (.subcInd 2, []) ∧
  decode [0xDF, 0x01] = .ok (.clr1 0x101 7, []) ∧
  decode [0x23, 0x02, 0x55] = .ok (.movDir 0x55 0x102, []) ∧
  decode [0x27, 0xAA] = .ok (.movInd 0xAA 3, []) ∧
  decode [0x39, 0x23] = .ok (.jmp 0x923, []) ∧
  decode [0x20, 0xFE, 0xDC] = .ok (.callf 0xFEDC, []) ∧
  decode [0x90, 0xFC] = .ok (.bnz 0xFC, []) ∧
  decode [0x11, 0xFE, 0xFD] = .ok (.brf 0xFDFE, []) ∧
  decode [0x98, 0x00, 0xED] = .ok (.bn 0x100 0 0xED, []) ∧
  decode [0x53, 0x03, 0xFD] = .ok (.dbnzDir 0x103 0xFD, []) ∧
  decode [0x56, 0xFE] = .ok (.dbnzInd 2 0xFE, []) ∧
  decode [0x41, 0x04, 0xED] = .ok (.bneImm 0x04 0xED, []) ∧
  decode [0x35, 0x09, 0x7D] = .ok (.beInd 1 0x09 0x7D, []) ∧
  decode [0x00, 0xFF] = .ok (.nop, [0xFF])

/-! State and access operations -/

/-- MemRead and MemWrite of a device cell are refused; of any other they read what the physical cell that
BankMap gives holds, and replace it and nothing else, whatever BankMap is. BankMap is what its table says of
the address, psw and access kind, and the identity where the table says nothing. With the empty table MemRead reads the cell of its address, and after a MemWrite the byte
written (R52, R53, R51, R7; D11; that a register is the cell of its address whatever BankMap is, and the
access kinds, are log entry 15). -/
def Obligations.MemReadAndMemWrite : Prop :=
  ∀ (s : State) (a : DataAddr) (v : Byte),
    (a ∈ s.deviceCells → memRead a s = .refused (.deviceCell a) ∧ memWrite a v s = .refused (.deviceCell a)) ∧
    (a ∉ s.deviceCells →
      memRead a s = .next (s.phys (s.bank .read a)) ∧
      ∃ t, memWrite a v s = .next t ∧ t.phys (s.bank .write a) = v ∧
        (∀ p, p ≠ s.bank .write a → t.phys p = s.phys p) ∧
        t.pc = s.pc ∧ t.intHold = s.intHold ∧ RunKept s t) ∧
    (∀ k p, s.params.bankMap.lookup (a, s.psw, k) = some p → s.bank k a = p) ∧
    (∀ k, s.params.bankMap.lookup (a, s.psw, k) = none → (s.bank k a).toNat = a.toNat) ∧
    (s.params.bankMap = [] →
      (∀ k, (s.bank k a).toNat = a.toNat) ∧
      (a ∉ s.deviceCells →
        memRead a s = .next (s.cell a) ∧ ∃ t, memWrite a v s = .next t ∧ memRead a t = .next v ∧ Keeps [a] s t))

/-- Each named register is one data cell, at its parameter address: a store to the cell is a write of the
register and of no register that is another cell, and a register write is a store to the cell. That registers are cells, and
the addresses' defaults, are the spec's own choice (R7, D2; R27 marks them as general knowledge). -/
def Obligations.RegistersAreCells : Prop :=
  ∀ (s : State) (a : DataAddr) (v : Byte),
    (s.setCell a v).acc = (if a = s.params.addrAcc then v else s.acc) ∧
    (s.setCell a v).psw = (if a = s.params.addrPsw then v else s.psw) ∧
    (s.setCell a v).b = (if a = s.params.addrB then v else s.b) ∧
    (s.setCell a v).c = (if a = s.params.addrC then v else s.c) ∧
    (s.setCell a v).trl = (if a = s.params.addrTrl then v else s.trl) ∧
    (s.setCell a v).trh = (if a = s.params.addrTrh then v else s.trh) ∧
    (s.setCell a v).sp = (if a = s.params.addrSp then v else s.sp) ∧
    (s.setAcc v).cell a = (if a = s.params.addrAcc then v else s.cell a) ∧
    (s.setPsw v).cell a = (if a = s.params.addrPsw then v else s.cell a) ∧
    (s.setB v).cell a = (if a = s.params.addrB then v else s.cell a) ∧
    (s.setC v).cell a = (if a = s.params.addrC then v else s.cell a) ∧
    (s.setSp v).cell a = (if a = s.params.addrSp then v else s.cell a)

/-- A flag is the bit of psw that its parameter names; writing one leaves the other seven bits, and every
other cell, as they are. The positions' defaults 7, 6 and 2 are the spec's own choice (R7, D3; R24 marks them
as general knowledge). -/
def Obligations.FlagWriteKeepsOtherBits : Prop :=
  ∀ (s : State) (v : Bool),
    (s.cy = s.psw.getLsbD s.params.bitCy.toNat ∧ s.ac = s.psw.getLsbD s.params.bitAc.toNat ∧
      s.ov = s.psw.getLsbD s.params.bitOv.toNat) ∧
    ((s.setCy v).cy = v ∧ PswKeeps [s.params.bitCy.toNat] s (s.setCy v) ∧
      Keeps [s.params.addrPsw] s (s.setCy v)) ∧
    ((s.setAc v).ac = v ∧ PswKeeps [s.params.bitAc.toNat] s (s.setAc v) ∧
      Keeps [s.params.addrPsw] s (s.setAc v)) ∧
    ((s.setOv v).ov = v ∧ PswKeeps [s.params.bitOv.toNat] s (s.setOv v) ∧
      Keeps [s.params.addrPsw] s (s.setOv v))

/-- Ri is the cell that PtrCell gives for i and psw, and @Ri designates PtrBase of i plus Ri, modulo 512. Each of
the two is what its table says of its arguments, and where the table says nothing: Ri is cell 8 * irbk1 + 4 * irbk0 + i, which with the bits at 4
and 3 is 4 * psw[4:3] + i, one of the first sixteen; and @Ri designates the cell whose low eight bits are Ri
and whose top bit is bit 1 of i. The scheme is the spec's own choice (R7, D9; R28 and R55 mark it as general
knowledge). THE MODEL'S CHOICE are the tables and the access kind pointer, log entry 15, and the wrap of a sum
that passes 0x1FF, which only a PtrBase of the table can make, log entry 16. -/
def Obligations.PointerAddressing : Prop :=
  ∀ (s : State) (i : BitVec 2),
    s.ptr i = s.phys (s.bank .pointer (ptrCell s.params i s.psw)) ∧
    (s.params.bankMap = [] → s.ptr i = s.cell (ptrCell s.params i s.psw)) ∧
    (s.ea i).toNat = ((ptrBase s.params i).toNat + (s.ptr i).toNat) % 512 ∧
    (∀ a, s.params.ptrCells.lookup (i, s.psw) = some a → ptrCell s.params i s.psw = a) ∧
    (∀ a, s.params.ptrBases.lookup i = some a → ptrBase s.params i = a) ∧
    (s.params.ptrBases.lookup i = none → (s.ea i).toNat = 256 * (i.toNat / 2) + (s.ptr i).toNat) ∧
    (s.params.ptrCells.lookup (i, s.psw) = none →
      (ptrCell s.params i s.psw).toNat =
          8 * (s.psw.getLsbD s.params.bitIrbk1.toNat).toNat + 4 * (s.psw.getLsbD s.params.bitIrbk0.toNat).toNat +
            i.toNat ∧
        (ptrCell s.params i s.psw).toNat < 16 ∧
        (s.params.bitIrbk1 = 4 → s.params.bitIrbk0 = 3 →
          (ptrCell s.params i s.psw).toNat = 4 * (s.psw.toNat / 8 % 4) + i.toNat))

/-- Push and Pop on cells that are no devices: Push raises sp modulo 256 and writes the cell the new sp
points at; Pop reads the cell sp points at and lowers sp modulo 256; a Pop right after a Push gives the byte
back and leaves sp as it was. The stack cells are the low 256 (D10; R58 marks the region as general
knowledge). -/
def Obligations.PushAndPop : Prop :=
  ∀ (s : State) (v : Byte), s.laidOut = true →
    (stackCell s.sp).toNat = s.sp.toNat ∧
    (s.isDevice (stackCell (s.sp + 1)) = false →
      ∃ t u, push v s = .next t ∧ t.sp.toNat = (s.sp.toNat + 1) % 256 ∧ t.cell (stackCell (s.sp + 1)) = v ∧
        t.pc = s.pc ∧ Keeps [s.params.addrSp, stackCell (s.sp + 1)] s t ∧
        pop t = .next (v, u) ∧ u.sp = s.sp ∧ Keeps [stackCell (s.sp + 1)] s u) ∧
    (s.isDevice (stackCell s.sp) = false →
      ∃ t, pop s = .next (s.cell (stackCell s.sp), t) ∧ t.sp.toNat = (s.sp.toNat + 255) % 256 ∧
        t.pc = s.pc ∧ Keeps [s.params.addrSp] s t)

/-! Arithmetic -/

/-- add and addc in every form: acc, the three flags, the other bits of psw, pc, and nothing else (R120,
R121). The flag formulas are the spec's own choice (D5, R128). -/
def Obligations.AddAndAddc : Prop :=
  ∀ (s : State) (i : Instr) (v : Byte) (k : Bool), s.laidOut = true →
    (SrcForm .addImm .addDir .addInd s i v ∧ k = false) ∨
      (SrcForm .addcImm .addcDir .addcInd s i v ∧ k = s.cy) →
    ∃ t, exec i s = .next t ∧
      t.acc.toNat = (s.acc.toNat + v.toNat + k.toNat) % 256 ∧
      t.cy = decide (255 < s.acc.toNat + v.toNat + k.toNat) ∧
      t.ac = decide (15 < s.acc.toNat % 16 + v.toNat % 16 + k.toNat) ∧
      t.ov = SignedOverflow (s.acc.toInt + v.toInt + k.toNat) ∧
      PswKeeps [s.params.bitCy.toNat, s.params.bitAc.toNat, s.params.bitOv.toNat] s t ∧
      PcAdvances i s t ∧ Keeps [s.params.addrAcc, s.params.addrPsw] s t

/-- sub and subc in every form (R122, R123). The flag formulas are the spec's own choice (D5, R128). -/
def Obligations.SubAndSubc : Prop :=
  ∀ (s : State) (i : Instr) (v : Byte) (k : Bool), s.laidOut = true →
    (SrcForm .subImm .subDir .subInd s i v ∧ k = false) ∨
      (SrcForm .subcImm .subcDir .subcInd s i v ∧ k = s.cy) →
    ∃ t, exec i s = .next t ∧
      (t.acc.toNat : Int) = ((s.acc.toNat : Int) - v.toNat - k.toNat) % 256 ∧
      t.cy = decide (s.acc.toNat < v.toNat + k.toNat) ∧
      t.ac = decide (s.acc.toNat % 16 < v.toNat % 16 + k.toNat) ∧
      t.ov = SignedOverflow (s.acc.toInt - v.toInt - k.toNat) ∧
      PswKeeps [s.params.bitCy.toNat, s.params.bitAc.toNat, s.params.bitOv.toNat] s t ∧
      PcAdvances i s t ∧ Keeps [s.params.addrAcc, s.params.addrPsw] s t

/-- inc and dec in both forms: the cell modulo 256, pc, and nothing else, so no flag where the cell is not
psw (R124, R125). The wrap is the spec's own choice (D6). -/
def Obligations.IncAndDec : Prop :=
  ∀ (s : State) (i : Instr) (a : DataAddr), s.laidOut = true →
    (LocForm .incDir .incInd s i a →
      ∃ t, exec i s = .next t ∧ (t.cell a).toNat = ((s.cell a).toNat + 1) % 256 ∧
        PcAdvances i s t ∧ Keeps [a] s t) ∧
    (LocForm .decDir .decInd s i a →
      ∃ t, exec i s = .next t ∧ (t.cell a).toNat = ((s.cell a).toNat + 255) % 256 ∧
        PcAdvances i s t ∧ Keeps [a] s t)

/-- mul: b : acc : c is the 24-bit product of acc : c and b, cy is cleared, ov says whether it exceeds 16
bits, ac stays (R126; that ov means exactly this is D14). -/
def Obligations.MulGives24BitProduct : Prop :=
  ∀ s : State, s.laidOut = true → HasForm .mul [0x30] 7 ∧
    ∃ t, exec .mul s = .next t ∧
      (t.b ++ t.acc ++ t.c).toNat = (s.acc ++ s.c).toNat * s.b.toNat ∧
      t.cy = false ∧ t.ov = decide (0xFFFF < (s.acc ++ s.c).toNat * s.b.toNat) ∧ t.ac = s.ac ∧
      PswKeeps [s.params.bitCy.toNat, s.params.bitOv.toNat] s t ∧
      PcAdvances .mul s t ∧ Keeps [s.params.addrAcc, s.params.addrB, s.params.addrC, s.params.addrPsw] s t

/-- div by a divisor that is not zero: acc : c the quotient and b the remainder, cy cleared, ov set exactly
when the remainder is zero, ac as it was (R127). -/
def Obligations.DivGivesQuotientAndRemainder : Prop :=
  ∀ s : State, s.laidOut = true → s.b ≠ 0 →
    ∃ t, exec .div s = .next t ∧
      (s.acc ++ s.c).toNat = (t.acc ++ t.c).toNat * s.b.toNat + t.b.toNat ∧ t.b.toNat < s.b.toNat ∧
      t.cy = false ∧ t.ov = decide (t.b = 0) ∧ t.ac = s.ac ∧
      PswKeeps [s.params.bitCy.toNat, s.params.bitOv.toNat] s t ∧
      PcAdvances .div s t ∧ Keeps [s.params.addrAcc, s.params.addrB, s.params.addrC, s.params.addrPsw] s t

/-- div by zero runs: acc, c, b and ov are the free value DivByZero of the old acc and c, whatever it is; cy
is still cleared and ac and everything else still kept. THE MODEL'S CHOICE: log entry 7 (R127 leaves the case
to the parameter DivByZero). -/
def Obligations.DivByZeroRunsWithFreeResult : Prop :=
  ∀ s : State, s.laidOut = true → s.b = 0 →
    ∃ t, exec .div s = .next t ∧
      t.acc = (Config.divByZero s.acc s.c).acc ∧ t.c = (Config.divByZero s.acc s.c).c ∧
      t.b = (Config.divByZero s.acc s.c).b ∧ t.ov = (Config.divByZero s.acc s.c).ov ∧
      t.cy = false ∧ t.ac = s.ac ∧ PswKeeps [s.params.bitCy.toNat, s.params.bitOv.toNat] s t ∧
      PcAdvances .div s t ∧ Keeps [s.params.addrAcc, s.params.addrB, s.params.addrC, s.params.addrPsw] s t

/-! Bitwise -/

/-- and, or and xor in every form: each bit of acc, pc, and nothing else, so no flag (R150, R151, R152). -/
def Obligations.AndOrXor : Prop :=
  ∀ (s : State) (i : Instr) (v : Byte) (f : Bool → Bool → Bool), s.laidOut = true →
    (SrcForm .andImm .andDir .andInd s i v ∧ f = and) ∨ (SrcForm .orImm .orDir .orInd s i v ∧ f = or) ∨
      (SrcForm .xorImm .xorDir .xorInd s i v ∧ f = xor) →
    ∃ t, exec i s = .next t ∧
      (∀ n, n < 8 → t.acc.getLsbD n = f (s.acc.getLsbD n) (v.getLsbD n)) ∧
      PcAdvances i s t ∧ Keeps [s.params.addrAcc] s t

/-- rol and ror: every bit of acc moves one place and wraps around; no flag (R153, R155). -/
def Obligations.RolAndRor : Prop :=
  ∀ s : State, HasForm .rol [0xE0] 1 ∧ HasForm .ror [0xC0] 1 ∧
    (∃ t, exec .rol s = .next t ∧
      (∀ n, n < 8 → t.acc.getLsbD ((n + 1) % 8) = s.acc.getLsbD n) ∧
      PcAdvances .rol s t ∧ Keeps [s.params.addrAcc] s t) ∧
    (∃ t, exec .ror s = .next t ∧
      (∀ n, n < 8 → t.acc.getLsbD n = s.acc.getLsbD ((n + 1) % 8)) ∧
      PcAdvances .ror s t ∧ Keeps [s.params.addrAcc] s t)

/-- rolc and rorc: the bits of cy and acc move one place through cy; ac and ov stay (R154, R156). -/
def Obligations.RolcAndRorc : Prop :=
  ∀ s : State, s.laidOut = true → HasForm .rolc [0xF0] 1 ∧ HasForm .rorc [0xD0] 1 ∧
    (∃ t, exec .rolc s = .next t ∧
      (∀ n, n < 7 → t.acc.getLsbD (n + 1) = s.acc.getLsbD n) ∧
      t.acc.getLsbD 0 = s.cy ∧ t.cy = s.acc.getLsbD 7 ∧ t.ac = s.ac ∧ t.ov = s.ov ∧
      PswKeeps [s.params.bitCy.toNat] s t ∧ PcAdvances .rolc s t ∧
      Keeps [s.params.addrAcc, s.params.addrPsw] s t) ∧
    (∃ t, exec .rorc s = .next t ∧
      (∀ n, n < 7 → t.acc.getLsbD n = s.acc.getLsbD (n + 1)) ∧
      t.acc.getLsbD 7 = s.cy ∧ t.cy = s.acc.getLsbD 0 ∧ t.ac = s.ac ∧ t.ov = s.ov ∧
      PswKeeps [s.params.bitCy.toNat] s t ∧ PcAdvances .rorc s t ∧
      Keeps [s.params.addrAcc, s.params.addrPsw] s t)

/-- ror undoes rol and rorc undoes rolc: every cell is as it was (corner cases of R155 and R156). -/
def Obligations.RotatesUndoEachOther : Prop :=
  ∀ s : State,
    (∃ t u, exec .rol s = .next t ∧ exec .ror t = .next u ∧ Keeps [] s u) ∧
    (s.laidOut = true → ∃ t u, exec .rolc s = .next t ∧ exec .rorc t = .next u ∧ Keeps [] s u)

/-- clr1, set1 and not1: the named bit of the cell, the other seven bits as they were, pc, and nothing else
(R157, R158, R159; that bit 0 is the least significant is D3). -/
def Obligations.BitInstructions : Prop :=
  ∀ (s : State) (d9 : DataAddr) (b3 : BitVec 3),
    HasForm (.clr1 d9 b3) [0b110#3 ++ d9.extractLsb' 8 1 ++ 1#1 ++ b3, d9.extractLsb' 0 8] 1 ∧
    HasForm (.set1 d9 b3) [0b111#3 ++ d9.extractLsb' 8 1 ++ 1#1 ++ b3, d9.extractLsb' 0 8] 1 ∧
    HasForm (.not1 d9 b3) [0b101#3 ++ d9.extractLsb' 8 1 ++ 1#1 ++ b3, d9.extractLsb' 0 8] 1 ∧
    (s.laidOut = true → s.isDevice d9 = false →
      (∃ t, exec (.clr1 d9 b3) s = .next t ∧
        (∀ n, n < 8 → (t.cell d9).getLsbD n = if n = b3.toNat then false else (s.cell d9).getLsbD n) ∧
        PcAdvances (.clr1 d9 b3) s t ∧ Keeps [d9] s t) ∧
      (∃ t, exec (.set1 d9 b3) s = .next t ∧
        (∀ n, n < 8 → (t.cell d9).getLsbD n = if n = b3.toNat then true else (s.cell d9).getLsbD n) ∧
        PcAdvances (.set1 d9 b3) s t ∧ Keeps [d9] s t) ∧
      (∃ t, exec (.not1 d9 b3) s = .next t ∧
        (∀ n, n < 8 → (t.cell d9).getLsbD n = if n = b3.toNat then !(s.cell d9).getLsbD n
          else (s.cell d9).getLsbD n) ∧
        PcAdvances (.not1 d9 b3) s t ∧ Keeps [d9] s t))

/-! Memory and storage -/

/-- ld, st and xch in both forms: the copy into acc, the copy out of acc, the exchange; pc, and nothing else
(R180, R181, R186). -/
def Obligations.LdStXch : Prop :=
  (∀ (d9 : DataAddr) (r : BitVec 2),
    HasForm (.ldDir d9) [0b0000001#7 ++ d9.extractLsb' 8 1, d9.extractLsb' 0 8] 1 ∧
    HasForm (.ldInd r) [0b000001#6 ++ r] 1 ∧
    HasForm (.stDir d9) [0b0001001#7 ++ d9.extractLsb' 8 1, d9.extractLsb' 0 8] 1 ∧
    HasForm (.stInd r) [0b000101#6 ++ r] 1 ∧
    HasForm (.xchDir d9) [0b1100001#7 ++ d9.extractLsb' 8 1, d9.extractLsb' 0 8] 1 ∧
    HasForm (.xchInd r) [0b110001#6 ++ r] 1) ∧
  ∀ (s : State) (i : Instr) (a : DataAddr), s.laidOut = true →
    (LocForm .ldDir .ldInd s i a →
      ∃ t, exec i s = .next t ∧ t.acc = s.cell a ∧ PcAdvances i s t ∧ Keeps [s.params.addrAcc] s t) ∧
    (LocForm .stDir .stInd s i a →
      ∃ t, exec i s = .next t ∧ t.cell a = s.acc ∧ PcAdvances i s t ∧ Keeps [a] s t) ∧
    (LocForm .xchDir .xchInd s i a →
      ∃ t, exec i s = .next t ∧ t.acc = s.cell a ∧ t.cell a = s.acc ∧ PcAdvances i s t ∧
        Keeps [a, s.params.addrAcc] s t)

/-- mov in both forms: the constant to the cell, pc, and nothing else (R182). -/
def Obligations.MovStoresConstant : Prop :=
  ∀ (s : State) (v : Byte),
    (∀ d9 : DataAddr, HasForm (.movDir v d9) [0b0010001#7 ++ d9.extractLsb' 8 1, d9.extractLsb' 0 8, v] 2) ∧
    (∀ r : BitVec 2, HasForm (.movInd v r) [0b001001#6 ++ r, v] 1) ∧
    ∀ (i : Instr) (a : DataAddr), s.laidOut = true → LocForm (.movDir v) (.movInd v) s i a →
      ∃ t, exec i s = .next t ∧ t.cell a = v ∧ PcAdvances i s t ∧ Keeps [a] s t

/-- ldc: acc takes the ROM byte at trh : trl plus the unsigned acc, modulo 65536 (R183). The modulus and the
one ROM space are the spec's own choice (D16). -/
def Obligations.LdcReadsRom : Prop :=
  ∀ s : State,
    ∃ t, exec .ldc s = .next t ∧
      t.acc = s.romRead (BitVec.ofNat 16 (256 * s.trh.toNat + s.trl.toNat + s.acc.toNat)) ∧
      PcAdvances .ldc s t ∧ Keeps [s.params.addrAcc] s t

/-- push of a cell other than sp's, where that cell and the stack cell are no devices: sp goes up by one
modulo 256, the stack cell takes the operand's byte, pc, and nothing else (R184; the stack's place is D10). -/
def Obligations.PushCopiesToStack : Prop :=
  ∀ (s : State) (d9 : DataAddr), s.laidOut = true → d9 ≠ s.params.addrSp → s.isDevice d9 = false →
    s.isDevice (stackCell (s.sp + 1)) = false →
    ∃ t, exec (.push d9) s = .next t ∧ t.sp.toNat = (s.sp.toNat + 1) % 256 ∧
      t.cell (stackCell (s.sp + 1)) = s.cell d9 ∧ PcAdvances (.push d9) s t ∧
      Keeps [s.params.addrSp, stackCell (s.sp + 1)] s t

/-- pop into a cell other than sp's: the cell takes the byte sp points at, sp goes down by one modulo 256,
pc, and nothing else; acc only where it is the operand (R185, C2; the stack's place is D10). -/
def Obligations.PopCopiesFromStack : Prop :=
  ∀ (s : State) (d9 : DataAddr), s.laidOut = true → d9 ≠ s.params.addrSp → s.isDevice d9 = false →
    s.isDevice (stackCell s.sp) = false →
    ∃ t, exec (.pop d9) s = .next t ∧ t.cell d9 = s.cell (stackCell s.sp) ∧
      t.sp.toNat = (s.sp.toNat + 255) % 256 ∧ PcAdvances (.pop d9) s t ∧ Keeps [d9, s.params.addrSp] s t

/-- push of the sp cell and pop into it are refused in every state, before anything else is done (R184, R185,
R282; the spec's own decision D18). -/
def Obligations.PushAndPopOfSpCell : Prop :=
  ∀ s : State, exec (.push s.params.addrSp) s = .refused .pushOfSpCell ∧
    exec (.pop s.params.addrSp) s = .refused .popIntoSpCell

/-- ldf and stf are refused in every state (R187, R188). -/
def Obligations.FlashInstructionsRefused : Prop :=
  ∀ s : State, exec .ldf s = .refused .flashLoadUnspecified ∧ exec .stf s = .refused .flashStoreUnspecified

/-! Jumps -/

/-- jmp goes to a12 in the 4096-byte page of the address after it, and br to that address plus its signed
byte; nothing else changes (R210, R212). The page rule's reading is D19, the sign of r8 is D8. -/
def Obligations.JmpAndBr : Prop :=
  ∀ (s : State) (a12 : BitVec 12) (r8 : Byte),
    (∃ t, exec (.jmp a12) s = .next t ∧
      t.pc.toNat = (s.pc.toNat + 2) % 65536 / 4096 * 4096 + a12.toNat ∧ Keeps [] s t) ∧
    (∃ t, exec (.br r8) s = .next t ∧ (t.pc.toNat : Int) = ShortTarget (.br r8) r8 s ∧ Keeps [] s t)

/-- jmpf goes to a16, and brf to the address after it, less one, plus r16 modulo 65536; nothing else changes.
For a target the assembler computes r16 = target - next + 1 modulo 65536 (R211, R213). -/
def Obligations.JmpfAndBrf : Prop :=
  ∀ (s : State) (a16 : CodeAddr) (r16 : BitVec 16),
    HasForm (.jmpf a16) [0x21, a16.extractLsb' 8 8, a16.extractLsb' 0 8] 2 ∧
    HasForm (.brf r16) [0x11, r16.extractLsb' 0 8, r16.extractLsb' 8 8] 4 ∧
    (∃ t, exec (.jmpf a16) s = .next t ∧ t.pc = a16 ∧ Keeps [] s t) ∧
    (∃ t, exec (.brf r16) s = .next t ∧ t.pc.toNat = (s.pc.toNat + 3 - 1 + r16.toNat) % 65536 ∧ Keeps [] s t) ∧
    (∀ target, target < 65536 → ∃ field : BitVec 16, assemble s.pc .brf [.direct target] = some (.brf field) ∧
      (field.toNat : Int) = ((target : Int) - (s.pc + 3).toNat + 1) % 65536)

/-! Branches -/

/-- bz branches when acc is zero and bnz when it is not; nothing but pc changes (R220, R221; the sign of r8 is
D8). -/
def Obligations.BzAndBnz : Prop :=
  ∀ (s : State) (r8 : Byte),
    (∃ t, exec (.bz r8) s = .next t ∧ Branches (decide (s.acc = 0)) (.bz r8) r8 s t ∧ Keeps [] s t) ∧
    (∃ t, exec (.bnz r8) s = .next t ∧ Branches (decide (s.acc ≠ 0)) (.bnz r8) r8 s t ∧ Keeps [] s t)

/-- bp branches when the bit is 1 and bn when it is 0; nothing but pc changes (R222, R224; the sign of r8 is
D8, the numbering of b3 D3). -/
def Obligations.BpAndBn : Prop :=
  ∀ (s : State) (d9 : DataAddr) (b3 : BitVec 3) (r8 : Byte), s.laidOut = true → s.isDevice d9 = false →
    (∃ t, exec (.bp d9 b3 r8) s = .next t ∧
      Branches ((s.cell d9).getLsbD b3.toNat) (.bp d9 b3 r8) r8 s t ∧ Keeps [] s t) ∧
    (∃ t, exec (.bn d9 b3 r8) s = .next t ∧
      Branches (!(s.cell d9).getLsbD b3.toNat) (.bn d9 b3 r8) r8 s t ∧ Keeps [] s t)

/-- bpc branches when the bit is 1 and clears it, leaving the other seven; when it is 0 nothing but pc changes
(R223; D30, D8). -/
def Obligations.BpcClearsAndBranches : Prop :=
  ∀ (s : State) (d9 : DataAddr) (b3 : BitVec 3) (r8 : Byte), s.laidOut = true → s.isDevice d9 = false →
    ∃ t, exec (.bpc d9 b3 r8) s = .next t ∧
      Branches ((s.cell d9).getLsbD b3.toNat) (.bpc d9 b3 r8) r8 s t ∧
      (∀ n, n < 8 → (t.cell d9).getLsbD n = if n = b3.toNat then false else (s.cell d9).getLsbD n) ∧
      ((s.cell d9).getLsbD b3.toNat = false → Keeps [] s t) ∧ Keeps [d9] s t

/-- dbnz in both forms: the cell less one modulo 256 in any case, the branch unless that is zero, and nothing
else (R225; D6, D8). -/
def Obligations.DbnzDecrementsAndBranches : Prop :=
  ∀ (s : State) (i : Instr) (a : DataAddr) (r8 : Byte), s.laidOut = true →
    LocForm (fun d9 => .dbnzDir d9 r8) (fun r => .dbnzInd r r8) s i a →
    ∃ t, exec i s = .next t ∧ (t.cell a).toNat = ((s.cell a).toNat + 255) % 256 ∧
      Branches (decide ((s.cell a).toNat ≠ 1)) i r8 s t ∧ Keeps [a] s t

/-- i is a form of be (be true) or bne (be false) with the offset r8, and in s it compares left with right
(R226, R227). -/
def Sys2Proof.Claims.CompareForm (be : Bool) (r8 : Byte) (s : State) (i : Instr) (left right : Byte) : Prop :=
  (i = (if be then .beImm right r8 else .bneImm right r8) ∧ left = s.acc) ∨
    (∃ d9, i = (if be then .beDir d9 r8 else .bneDir d9 r8) ∧ s.isDevice d9 = false ∧ left = s.acc ∧
      right = s.cell d9) ∨
    (∃ r, i = (if be then .beInd r right r8 else .bneInd r right r8) ∧ s.isDevice (s.ea r) = false ∧
      left = s.cell (s.ea r))

/-- be and bne in every form: cy is the unsigned less-than, be branches on equal and bne on different, ac, ov
and the other bits of psw stay, and nothing else changes (R226, R227; D7, D8). -/
def Obligations.BeAndBne : Prop :=
  ∀ (be : Bool) (s : State) (i : Instr) (left right r8 : Byte), s.laidOut = true →
    CompareForm be r8 s i left right →
    ∃ t, exec i s = .next t ∧ t.cy = decide (left.toNat < right.toNat) ∧ t.ac = s.ac ∧ t.ov = s.ov ∧
      Branches (decide (left = right) == be) i r8 s t ∧
      PswKeeps [s.params.bitCy.toNat] s t ∧ Keeps [s.params.addrPsw] s t

/-! Calls and returns -/

/-- The two stack cells of a call are no devices. -/
def Sys2Proof.Claims.CanPushTwo (s : State) : Prop :=
  s.isDevice (stackCell (s.sp + 1)) = false ∧ s.isDevice (stackCell (s.sp + 2)) = false

/-- What every call does with the stack: the address after it, the low byte in the lower cell and the high
byte in the cell above, sp up by two modulo 256, and nothing else but pc (R255). -/
def Sys2Proof.Claims.PushesReturn (i : Instr) (s t : State) : Prop :=
  (t.cell (stackCell (s.sp + 2)) ++ t.cell (stackCell (s.sp + 1))).toNat = (s.pc.toNat + i.length) % 65536 ∧
    t.sp.toNat = (s.sp.toNat + 2) % 256 ∧
    Keeps [s.params.addrSp, stackCell (s.sp + 1), stackCell (s.sp + 2)] s t

/-- call pushes the return address and goes to a12 in the page of the address after it (R250; the reading of
the page rule is D19). -/
def Obligations.CallPushesAndJumps : Prop :=
  ∀ (s : State) (a12 : BitVec 12), s.laidOut = true → CanPushTwo s →
    ∃ t, exec (.call a12) s = .next t ∧ PushesReturn (.call a12) s t ∧
      t.pc.toNat = (s.pc.toNat + 2) % 65536 / 4096 * 4096 + a12.toNat

/-- callf and callr push the return address and go to a16, and to the address after the instruction less one
plus r16 modulo 65536 (R251, R252, R255; the stack's place and the wrap of sp are D10). -/
def Obligations.CallfAndCallr : Prop :=
  ∀ (s : State) (a16 : CodeAddr) (r16 : BitVec 16),
    HasForm (.callf a16) [0x20, a16.extractLsb' 8 8, a16.extractLsb' 0 8] 2 ∧
    HasForm (.callr r16) [0x10, r16.extractLsb' 0 8, r16.extractLsb' 8 8] 2 ∧
    (s.laidOut = true → CanPushTwo s →
      (∃ t, exec (.callf a16) s = .next t ∧ PushesReturn (.callf a16) s t ∧ t.pc = a16) ∧
      (∃ t, exec (.callr r16) s = .next t ∧ PushesReturn (.callr r16) s t ∧
        t.pc.toNat = (s.pc.toNat + 3 - 1 + r16.toNat) % 65536))

/-- The two stack cells of a return are no devices. -/
def Sys2Proof.Claims.CanPopTwo (s : State) : Prop :=
  s.isDevice (stackCell s.sp) = false ∧ s.isDevice (stackCell (s.sp - 1)) = false

/-- ret pops pc, the high byte first, lowers sp by two modulo 256, and changes nothing else, int_hold
included (R253; the stack's place and the wrap of sp are D10). -/
def Obligations.RetPopsPc : Prop :=
  ∀ s : State, HasForm .ret [0xA0] 2 ∧
    (s.laidOut = true → CanPopTwo s →
      ∃ t, exec .ret s = .next t ∧ t.pc = s.cell (stackCell s.sp) ++ s.cell (stackCell (s.sp - 1)) ∧
        t.sp.toNat = (s.sp.toNat + 254) % 256 ∧ Keeps [s.params.addrSp] s t)

/-- reti does what ret does and clears int_hold (R254; int_hold is D20). -/
def Obligations.RetiPopsPcAndResumes : Prop :=
  ∀ s : State, s.laidOut = true → CanPopTwo s →
    ∃ t, exec .reti s = .next t ∧ t.pc = s.cell (stackCell s.sp) ++ s.cell (stackCell (s.sp - 1)) ∧
      t.sp.toNat = (s.sp.toNat + 254) % 256 ∧ t.intHold = false ∧ KeepsCells [s.params.addrSp] s t

/-- A call followed by a ret comes back to the address after the call with sp and every cell but the two
stack cells as before (R255; section 2.7 of the test vectors). -/
def Obligations.CallThenRetReturns : Prop :=
  ∀ (s : State) (i : Instr), s.laidOut = true → CanPushTwo s →
    ((∃ a, i = .call a) ∨ (∃ a, i = .callf a) ∨ (∃ r, i = .callr r)) →
    ∃ t u, exec i s = .next t ∧ exec .ret t = .next u ∧ PcAdvances i s u ∧
      Keeps [stackCell (s.sp + 1), stackCell (s.sp + 2)] s u

/-- nop advances pc and changes nothing else (R270). -/
def Obligations.NopOnlyAdvances : Prop :=
  ∀ s : State, HasForm .nop [0x00] 1 ∧ ∃ t, exec .nop s = .next t ∧ PcAdvances .nop s t ∧ Keeps [] s t

/-! Steps, interrupts -/

/-- Where the bytes in ROM space at pc, at rising addresses modulo 65536 (the order is D1, the wrap D31), are
an instruction's encoding and the interrupt agent's request is not taken, the step is that instruction's
meaning, run in the state whose schedule of requests has moved on and which is otherwise as before (R80, R285,
R321). That a request is taken, and that the schedule moves on by one entry, are said with the field requests,
which is THE MODEL'S CHOICE: log entry 6. -/
def Obligations.StepRunsInstructionAtPc : Prop :=
  ∀ (s : State) (i : Instr),
    (∀ k, k < i.length → s.romRead (s.pc + BitVec.ofNat 16 k) = (encode i).getD k 0) → s.accepted = none →
    s.fetch = i ∧ step s = exec i s.afterBoundary ∧
      s.afterBoundary = { s with requests := if s.intHold then s.requests else s.requests.tail }

/-- With int_hold 0 and a request of a known source presented, the step is interrupt entry: pc is pushed low
byte first, int_hold is set, pc is the vector, and nothing else changes but the schedule (R285, R286; the
mechanism is the spec's own choice, D20, and the schedule is log entry 6). -/
def Obligations.StepEntersInterrupt : Prop :=
  ∀ (s : State) (src : IntSource) (rest : List (Option IntSource)), s.intHold = false →
    s.requests = some src :: rest → src ∈ s.intSources → s.laidOut = true → CanPushTwo s →
    ∃ t, step s = .next t ∧ t.pc = src.vector ∧ t.intHold = true ∧ t.requests = rest ∧
      t.cell (stackCell (s.sp + 2)) ++ t.cell (stackCell (s.sp + 1)) = s.pc ∧
      t.sp.toNat = (s.sp.toNat + 2) % 256 ∧
      CellsKept [s.params.addrSp, stackCell (s.sp + 1), stackCell (s.sp + 2)] s t ∧
      (∀ a, t.romRead a = s.romRead a) ∧ t.params = s.params ∧ t.deviceCells = s.deviceCells ∧
      t.intSources = s.intSources

/-- With int_hold 1 no interrupt is taken, whatever is requested: the step is the meaning of the instruction
at pc, in the same state (R285, R288; D20). -/
def Obligations.HeldInterruptsWait : Prop :=
  ∀ s : State, s.intHold = true → step s = exec s.fetch s

/-- reti right after an interrupt entry restores pc, sp, int_hold and every cell but the two stack cells
(R286, R287; D20). -/
def Obligations.EntryThenRetiRestores : Prop :=
  ∀ (s : State) (vector : CodeAddr), s.intHold = false → s.laidOut = true → CanPushTwo s →
    ∃ t u, enterInterrupt vector s = .next t ∧ t.pc = vector ∧ t.intHold = true ∧ exec .reti t = .next u ∧
      u.pc = s.pc ∧ Keeps [stackCell (s.sp + 1), stackCell (s.sp + 2)] s u

/-! The whole machine -/

/-- When an instruction completes and when it is refused, exactly: push of the sp cell and pop into it are
refused (D18); else the first device cell among those it accesses refuses it (D12); else ldf and stf are
refused (D17); and every other instruction has a next state in every state (R52, R53, R282). That div by zero
is among those that complete is THE MODEL'S CHOICE of the parameter DivByZero: log entry 7. -/
def Obligations.CompletesUnlessRefused : Prop :=
  ∀ (i : Instr) (s : State), s.laidOut = true →
    if i = .push s.params.addrSp then exec i s = .refused .pushOfSpCell
    else if i = .pop s.params.addrSp then exec i s = .refused .popIntoSpCell
    else
      match (accessedCells i s).find? s.isDevice with
      | some a => exec i s = .refused (.deviceCell a)
      | none =>
        if i = .ldf then exec i s = .refused .flashLoadUnspecified
        else if i = .stf then exec i s = .refused .flashStoreUnspecified
        else ∃ t, exec i s = .next t

/-- Without device cells the machine goes on, and still has no device cell, from every state in which an
interrupt is taken, whatever stands at pc, and from every other in which the instruction at pc is none of ldf,
stf, push of the sp cell and pop into it (R282, R286, R320; what is taken is log entry 6). That a
div by zero goes on too, where R282 refuses it by default, is THE MODEL'S CHOICE of the parameter DivByZero:
log entry 7. -/
def Obligations.RunsOnWithoutDevices : Prop :=
  ∀ s : State, s.deviceCells = [] →
    (s.accepted = none → s.fetch ∉ [.ldf, .stf, .push s.params.addrSp, .pop s.params.addrSp]) →
    ∃ t, step s = .next t ∧ t.deviceCells = []

/-- No instruction changes a data cell that R37 does not give it. -/
def Obligations.OnlyWrittenCellsChange : Prop :=
  ∀ (i : Instr) (s t : State), s.laidOut = true → exec i s = .next t → CellsKept (writtenCells i s) s t

/-- No instruction changes a flag that R32 does not give it, or any other bit of psw, except by storing data
to the psw cell. -/
def Obligations.OnlyFlagWritersChangeFlags : Prop :=
  ∀ (i : Instr) (s t : State), s.laidOut = true → exec i s = .next t → s.params.addrPsw ∉ storedCells i s →
    (writesCy i = false → t.cy = s.cy) ∧ (writesAc i = false → t.ac = s.ac) ∧
    (writesOv i = false → t.ov = s.ov) ∧
    PswKeeps [s.params.bitCy.toNat, s.params.bitAc.toNat, s.params.bitOv.toNat] s t

/-- Of the instructions only reti changes int_hold, and it clears it; a step sets it only by entering an
interrupt (R34, R37). -/
def Obligations.IntHoldWriters : Prop :=
  (∀ (i : Instr) (s t : State), exec i s = .next t →
    t.intHold = if i = .reti then false else s.intHold) ∧
  (∀ s t : State, step s = .next t → s.intHold = false → t.intHold = true → s.accepted ≠ none)

/-- A step changes no byte of ROM space and no parameter of the run (R57, R35, R7; D27; that the parameters
stand in State is log entry 15). -/
def Obligations.StepKeepsRomAndParameters : Prop :=
  ∀ s t : State, step s = .next t →
    t.rom = s.rom ∧ t.params = s.params ∧ t.deviceCells = s.deviceCells ∧ t.intSources = s.intSources

/-- Every step keeps both memories in their canonical form: rising addresses, of ROM space below 65536 and of
the data space below 512 where it is flat, and no entry that an unlisted address would read as (R50, R51, R56).
The form is THE MODEL'S CHOICE: log entry 2. -/
def Obligations.StepKeepsMemoryForm : Prop :=
  ∀ s t : State, s.wf = true → step s = .next t → t.wf = true

/-- The state after reset, with any parameters, has both memories in their canonical form. The form is THE
MODEL'S CHOICE: log entry 2; R310 says nothing of it. -/
def Obligations.ResetMemoryForm : Prop := ∀ p : Params, (State.resetWith p).wf = true

/-- Reset: pc is RESET_PC, by default 0x0000, and int_hold is 0; and whatever ROM space holds, the first
instruction is the one whose bytes stand at RESET_PC, run in the reset state itself (R36, R310, R311; the
values are the spec's own choice, D23). That the state after reset holds a program, placed in rom from outside,
is THE MODEL'S CHOICE: log entry 3; that no interrupt is requested before the first instruction is the empty
schedule requests of log entry 6. -/
def Obligations.ResetPcAndIntHold : Prop :=
  State.reset.pc = 0x0000#16 ∧ State.reset.intHold = false ∧
    ∀ (p : Params) (rom : List Host.Cell),
      (State.resetWith p).pc = p.resetPc ∧ (State.resetWith p).intHold = false ∧
      step { State.resetWith p with rom := rom } =
        exec (decode3 (Memory.read rom p.resetPc.toNat) (Memory.read rom ((p.resetPc.toNat + 1) % 65536))
            (Memory.read rom ((p.resetPc.toNat + 2) % 65536)))
          { State.resetWith p with rom := rom }

/-- A br to itself, bytes 01 FE, is a fixed point of the step where nothing is requested: the end of a run
(R320; D25). -/
def Obligations.SelfBranchIsFixedPoint : Prop :=
  ∀ s : State, s.romRead s.pc = 0x01 → s.romRead (s.pc + 1) = 0xFE → s.requests = [] → step s = .next s

/-- i is an instruction whose next pc is, in s, its target operand: a jump or a call, or a conditional branch
whose condition holds (R220 to R227). -/
def Sys2Proof.Claims.GoesToTarget (s : State) (i : Instr) : Prop :=
  match i with
  | .jmp _ | .jmpf _ | .br _ | .brf _ | .call _ | .callf _ | .callr _ => True
  | .bz _ => s.acc = 0
  | .bnz _ => s.acc ≠ 0
  | .bp d9 b3 _ | .bpc d9 b3 _ => (s.cell d9).getLsbD b3.toNat = true
  | .bn d9 b3 _ => (s.cell d9).getLsbD b3.toNat = false
  | .dbnzDir d9 _ => s.cell d9 ≠ 1
  | .dbnzInd r _ => s.cell (s.ea r) ≠ 1
  | .beImm v _ => s.acc = v
  | .beDir d9 _ => s.acc = s.cell d9
  | .beInd r v _ => s.cell (s.ea r) = v
  | .bneImm v _ => s.acc ≠ v
  | .bneDir d9 _ => s.acc ≠ s.cell d9
  | .bneInd r v _ => s.cell (s.ea r) ≠ v
  | .addImm _ | .addDir _ | .addInd _ | .addcImm _ | .addcDir _ | .addcInd _
  | .subImm _ | .subDir _ | .subInd _ | .subcImm _ | .subcDir _ | .subcInd _ | .incDir _ | .incInd _
  | .decDir _ | .decInd _ | .mul | .div | .andImm _ | .andDir _ | .andInd _ | .orImm _ | .orDir _ | .orInd _
  | .xorImm _ | .xorDir _ | .xorInd _ | .rol | .rolc | .ror | .rorc | .clr1 _ _ | .set1 _ _ | .not1 _ _
  | .ldDir _ | .ldInd _ | .stDir _ | .stInd _ | .movDir _ _ | .movInd _ _ | .ldc | .push _ | .pop _
  | .xchDir _ | .xchInd _ | .ldf | .stf | .ret | .reti | .nop => False

/-- The field the assembler computes from a target makes the instruction, placed at the address it was
assembled for, go to the target: every mnemonic with a code address, jmp, jmpf, br, brf, call, callf and callr
always and bz, bnz, bp, bpc, bn, dbnz, be and bne where the condition holds, in every form, with the target as
its last argument (R114, R102 to R105; the assembler's duties are the spec's own choice, D29). -/
def Obligations.AssembledTargetIsReached : Prop :=
  ∀ (s : State) (m : Mnemonic) (args : List Arg) (target : Nat) (i : Instr),
    assemble s.pc m (args ++ [.direct target]) = some i → GoesToTarget s i → s.laidOut = true →
    (∀ a ∈ accessedCells i s, s.isDevice a = false) →
    ∃ t, exec i s = .next t ∧ t.pc.toNat = target

/-! The parameters -/

/-- Every step keeps the layout of the parameters: register cells and flag bits pairwise distinct (R7), no
register among the stack's cells (R58), the data space flat (R51). -/
def Obligations.StepKeepsLayout : Prop :=
  ∀ s t : State, s.laidOut = true → step s = .next t → t.laidOut = true

/-- After reset the parameters that State holds in params, deviceCells and intSources are at R7's defaults:
the register cells 0x100 to 0x106, the flag bits 7, 6 and 2, the pointer bank bits 4 and 3, PtrCell, PtrBase
and BankMap without a deviation from their defaults, RESET_PC 0x0000, no device cell and no interrupt source;
and they are laid out as the spec's machine has them. The defaults are the spec's own choice (D2, D3, D9, D11,
D12, D20, D23), most of them marked as general knowledge; that these parameters stand in State, the maps as
tables, is THE MODEL'S CHOICE, log entry 15. Of R7's other parameters nothing is said here: DivByZero, which
the model does not leave at its default refuse but gives as a free value (log entry 7), FlashLoad and
FlashStore, HaltSet and Rom. -/
def Obligations.ResetParameters : Prop :=
  State.reset.params.registerCells = [0x100, 0x101, 0x102, 0x103, 0x104, 0x105, 0x106] ∧
    State.reset.params.flagBits = [7, 6, 2] ∧
    State.reset.params.bitIrbk1 = 4 ∧ State.reset.params.bitIrbk0 = 3 ∧
    State.reset.params.ptrCells = [] ∧ State.reset.params.ptrBases = [] ∧ State.reset.params.bankMap = [] ∧
    State.reset.params.resetPc = 0x0000 ∧ State.reset.deviceCells = [] ∧ State.reset.intSources = [] ∧
    State.reset.laidOut = true
end

