-- ==== Sys2Proof/Laws/Memory.lean ====
section
/-! SUPPORT. The laws of byte memories: reading after writing, and the canonical form kept. None of the
reading laws needs the canonical form. -/

namespace Sys2Proof.Machine

theorem Memory.read_cons (k b : Nat) (v : Byte) (rest : List Host.Cell) :
    Memory.read ((k, v) :: rest) b = if k = b then v else Memory.read rest b := rfl

theorem Memory.read_erase (m : List Host.Cell) (a b : Nat) :
    Memory.read (Memory.erase m a) b = if b = a then Memory.unlisted else Memory.read m b := by
  induction m with
  | nil => simp [Memory.erase, Memory.read]
  | cons e rest ih =>
    obtain ⟨k, v⟩ := e
    unfold Memory.erase
    split
    · next h =>
      subst h
      by_cases hb : b = k
      · simpa [hb] using ih
      · simpa [hb, Memory.read_cons, Ne.symm hb] using ih
    · next h =>
      by_cases hb : k = b
      · have : ¬ b = a := fun e => h (hb.trans e)
        simp [Memory.read_cons, hb, this]
      · simp [Memory.read_cons, hb, ih]

theorem Memory.read_insert (m : List Host.Cell) (a b : Nat) (v : Byte) :
    Memory.read (Memory.insert m a v) b = if b = a then v else Memory.read m b := by
  induction m with
  | nil => simp [Memory.insert, Memory.read, eq_comm]
  | cons e rest ih =>
    obtain ⟨k, w⟩ := e
    unfold Memory.insert
    split
    · simp [Memory.read_cons, eq_comm]
    · split
      · next h =>
        subst h
        by_cases hb : a = b
        · simp [Memory.read_cons, hb]
        · simp [Memory.read_cons, hb, Ne.symm hb]
      · next h =>
        by_cases hb : k = b
        · have : ¬ b = a := fun e => h (hb.trans e).symm
          simp [Memory.read_cons, hb, this]
        · simp [Memory.read_cons, hb, ih]

/-- A write is seen at its own address and nowhere else. -/
theorem Memory.read_write (m : List Host.Cell) (a b : Nat) (v : Byte) :
    Memory.read (Memory.write m a v) b = if b = a then v else Memory.read m b := by
  unfold Memory.write
  split
  · next h => rw [Memory.read_erase, h]
  · exact Memory.read_insert m a b v

theorem Memory.mem_erase {m : List Host.Cell} {a : Nat} {e : Host.Cell} (h : e ∈ Memory.erase m a) : e ∈ m := by
  induction m with
  | nil => simp [Memory.erase] at h
  | cons f rest ih =>
    obtain ⟨k, v⟩ := f
    unfold Memory.erase at h
    split at h
    · exact List.mem_cons_of_mem _ (ih h)
    · rcases List.mem_cons.mp h with h | h
      · exact h ▸ List.mem_cons_self
      · exact List.mem_cons_of_mem _ (ih h)

theorem Memory.mem_insert {m : List Host.Cell} {a : Nat} {v : Byte} {e : Host.Cell}
    (h : e ∈ Memory.insert m a v) : e = (a, v) ∨ e ∈ m := by
  induction m with
  | nil => simpa [Memory.insert] using h
  | cons f rest ih =>
    obtain ⟨k, w⟩ := f
    unfold Memory.insert at h
    split at h
    · simpa using h
    · split at h
      · rcases List.mem_cons.mp h with h | h
        · exact .inl h
        · exact .inr (List.mem_cons_of_mem _ h)
      · rcases List.mem_cons.mp h with h | h
        · exact .inr (h ▸ List.mem_cons_self)
        · rcases ih h with h | h
          · exact .inl h
          · exact .inr (List.mem_cons_of_mem _ h)

/-- What the canonical form says of a list with a head. -/
theorem Memory.wf_cons {size k : Nat} {v : Byte} {rest : List Host.Cell} :
    Memory.wf size ((k, v) :: rest) = true ↔
      k < size ∧ v ≠ Memory.unlisted ∧ (∀ e ∈ rest, k < e.1) ∧ Memory.wf size rest = true := by
  simp [Memory.wf, and_assoc]

theorem Memory.wf_erase {size : Nat} {m : List Host.Cell} (a : Nat) (h : Memory.wf size m = true) :
    Memory.wf size (Memory.erase m a) = true := by
  induction m with
  | nil => rfl
  | cons e rest ih =>
    obtain ⟨k, v⟩ := e
    obtain ⟨hk, hv, hall, hrest⟩ := Memory.wf_cons.mp h
    unfold Memory.erase
    split
    · exact ih hrest
    · exact Memory.wf_cons.mpr ⟨hk, hv, fun e he => hall e (Memory.mem_erase he), ih hrest⟩

theorem Memory.wf_insert {size : Nat} {m : List Host.Cell} {a : Nat} {v : Byte} (ha : a < size)
    (hv : v ≠ Memory.unlisted) (h : Memory.wf size m = true) : Memory.wf size (Memory.insert m a v) = true := by
  induction m with
  | nil => simp [Memory.insert, Memory.wf, ha, hv]
  | cons e rest ih =>
    obtain ⟨k, w⟩ := e
    obtain ⟨hk, hw, hall, hrest⟩ := Memory.wf_cons.mp h
    unfold Memory.insert
    split
    · next hlt =>
      refine Memory.wf_cons.mpr ⟨ha, hv, ?_, h⟩
      intro e he
      rcases List.mem_cons.mp he with rfl | he
      · exact hlt
      · exact lt_trans hlt (hall e he)
    · next hlt =>
      split
      · next hak => subst hak; exact Memory.wf_cons.mpr ⟨ha, hv, hall, hrest⟩
      · next hak =>
        refine Memory.wf_cons.mpr ⟨hk, hw, ?_, ih hrest⟩
        intro e he
        rcases Memory.mem_insert he with rfl | he
        · show k < a; omega
        · exact hall e he

/-- A write below the size keeps the canonical form. -/
theorem Memory.wf_write {size : Nat} {m : List Host.Cell} {a : Nat} (v : Byte) (ha : a < size)
    (h : Memory.wf size m = true) : Memory.wf size (Memory.write m a v) = true := by
  unfold Memory.write
  split
  · exact Memory.wf_erase a h
  · next hv => exact Memory.wf_insert ha hv h

end Sys2Proof.Machine
end

