-- ==== Sys2Proof/Laws/State.lean ====
section
/-! SUPPORT. One lemma for each field under each update of the state, and the cells under each update: no
later proof unfolds a record update or a memory. -/

namespace Sys2Proof.Machine

/-! Fields under setPhys, setCell, store, setPc, setIntHold -/

@[simp] theorem State.setPhys_pc (s : State) (p : PhysCell) (v : Byte) :
    (s.setPhys p v).pc = s.pc := rfl
@[simp] theorem State.setPhys_rom (s : State) (p : PhysCell) (v : Byte) :
    (s.setPhys p v).rom = s.rom := rfl
@[simp] theorem State.setPhys_intHold (s : State) (p : PhysCell) (v : Byte) :
    (s.setPhys p v).intHold = s.intHold := rfl
@[simp] theorem State.setPhys_deviceCells (s : State) (p : PhysCell) (v : Byte) :
    (s.setPhys p v).deviceCells = s.deviceCells := rfl
@[simp] theorem State.setPhys_intSources (s : State) (p : PhysCell) (v : Byte) :
    (s.setPhys p v).intSources = s.intSources := rfl
@[simp] theorem State.setPhys_requests (s : State) (p : PhysCell) (v : Byte) :
    (s.setPhys p v).requests = s.requests := rfl
@[simp] theorem State.setPhys_params (s : State) (p : PhysCell) (v : Byte) :
    (s.setPhys p v).params = s.params := rfl
@[simp] theorem State.setPhys_data (s : State) (p : PhysCell) (v : Byte) :
    (s.setPhys p v).data = Memory.write s.data p.toNat v := rfl

@[simp] theorem State.setCell_pc (s : State) (a : DataAddr) (v : Byte) :
    (s.setCell a v).pc = s.pc := rfl
@[simp] theorem State.setCell_rom (s : State) (a : DataAddr) (v : Byte) :
    (s.setCell a v).rom = s.rom := rfl
@[simp] theorem State.setCell_intHold (s : State) (a : DataAddr) (v : Byte) :
    (s.setCell a v).intHold = s.intHold := rfl
@[simp] theorem State.setCell_deviceCells (s : State) (a : DataAddr) (v : Byte) :
    (s.setCell a v).deviceCells = s.deviceCells := rfl
@[simp] theorem State.setCell_intSources (s : State) (a : DataAddr) (v : Byte) :
    (s.setCell a v).intSources = s.intSources := rfl
@[simp] theorem State.setCell_requests (s : State) (a : DataAddr) (v : Byte) :
    (s.setCell a v).requests = s.requests := rfl
@[simp] theorem State.setCell_params (s : State) (a : DataAddr) (v : Byte) :
    (s.setCell a v).params = s.params := rfl

@[simp] theorem State.store_pc (s : State) (k : Access) (a : DataAddr) (v : Byte) :
    (s.store k a v).pc = s.pc := rfl
@[simp] theorem State.store_rom (s : State) (k : Access) (a : DataAddr) (v : Byte) :
    (s.store k a v).rom = s.rom := rfl
@[simp] theorem State.store_intHold (s : State) (k : Access) (a : DataAddr) (v : Byte) :
    (s.store k a v).intHold = s.intHold := rfl
@[simp] theorem State.store_deviceCells (s : State) (k : Access) (a : DataAddr) (v : Byte) :
    (s.store k a v).deviceCells = s.deviceCells := rfl
@[simp] theorem State.store_intSources (s : State) (k : Access) (a : DataAddr) (v : Byte) :
    (s.store k a v).intSources = s.intSources := rfl
@[simp] theorem State.store_requests (s : State) (k : Access) (a : DataAddr) (v : Byte) :
    (s.store k a v).requests = s.requests := rfl
@[simp] theorem State.store_params (s : State) (k : Access) (a : DataAddr) (v : Byte) :
    (s.store k a v).params = s.params := rfl

@[simp] theorem State.setPc_pc (s : State) (t : CodeAddr) : (s.setPc t).pc = t := rfl
@[simp] theorem State.setPc_data (s : State) (t : CodeAddr) : (s.setPc t).data = s.data := rfl
@[simp] theorem State.setPc_rom (s : State) (t : CodeAddr) : (s.setPc t).rom = s.rom := rfl
@[simp] theorem State.setPc_intHold (s : State) (t : CodeAddr) : (s.setPc t).intHold = s.intHold := rfl
@[simp] theorem State.setPc_deviceCells (s : State) (t : CodeAddr) :
    (s.setPc t).deviceCells = s.deviceCells := rfl
@[simp] theorem State.setPc_intSources (s : State) (t : CodeAddr) :
    (s.setPc t).intSources = s.intSources := rfl
@[simp] theorem State.setPc_requests (s : State) (t : CodeAddr) : (s.setPc t).requests = s.requests := rfl
@[simp] theorem State.setPc_params (s : State) (t : CodeAddr) : (s.setPc t).params = s.params := rfl
@[simp] theorem State.setPc_phys (s : State) (t : CodeAddr) (p : PhysCell) : (s.setPc t).phys p = s.phys p := rfl
@[simp] theorem State.setPc_cell (s : State) (t : CodeAddr) (a : DataAddr) : (s.setPc t).cell a = s.cell a := rfl

@[simp] theorem State.setIntHold_pc (s : State) (v : Bool) : (s.setIntHold v).pc = s.pc := rfl
@[simp] theorem State.setIntHold_data (s : State) (v : Bool) : (s.setIntHold v).data = s.data := rfl
@[simp] theorem State.setIntHold_rom (s : State) (v : Bool) : (s.setIntHold v).rom = s.rom := rfl
@[simp] theorem State.setIntHold_intHold (s : State) (v : Bool) : (s.setIntHold v).intHold = v := rfl
@[simp] theorem State.setIntHold_deviceCells (s : State) (v : Bool) :
    (s.setIntHold v).deviceCells = s.deviceCells := rfl
@[simp] theorem State.setIntHold_intSources (s : State) (v : Bool) :
    (s.setIntHold v).intSources = s.intSources := rfl
@[simp] theorem State.setIntHold_requests (s : State) (v : Bool) : (s.setIntHold v).requests = s.requests := rfl
@[simp] theorem State.setIntHold_params (s : State) (v : Bool) : (s.setIntHold v).params = s.params := rfl
@[simp] theorem State.setIntHold_phys (s : State) (v : Bool) (p : PhysCell) :
    (s.setIntHold v).phys p = s.phys p := rfl
@[simp] theorem State.setIntHold_cell (s : State) (v : Bool) (a : DataAddr) :
    (s.setIntHold v).cell a = s.cell a := rfl

/-- A write of a physical cell is seen there and nowhere else. -/
theorem State.phys_setPhys (s : State) (p q : PhysCell) (v : Byte) :
    (s.setPhys p v).phys q = if q = p then v else s.phys q := by
  unfold State.phys
  rw [State.setPhys_data, Memory.read_write]
  simp [BitVec.toNat_inj]

theorem cellOf_inj {a b : DataAddr} (h : a.setWidth 16 = (b.setWidth 16 : PhysCell)) : a = b := by
  have := congrArg BitVec.toNat h
  simp at this
  exact BitVec.eq_of_toNat_eq (by omega)

theorem cellOf_lt (a : DataAddr) : (a.setWidth 16 : PhysCell).toNat < 512 := by
  simp; omega

/-- A cell write is seen at its own address and nowhere else (R53). -/
theorem State.cell_setCell (s : State) (a b : DataAddr) (v : Byte) :
    (s.setCell a v).cell b = if b = a then v else s.cell b := by
  unfold State.cell State.setCell
  rw [State.phys_setPhys]
  by_cases h : b = a
  · simp [h]
  · rw [if_neg (fun e => h (cellOf_inj e)), if_neg h]

/-- A cell write changes no physical cell that is not among the 512. -/
theorem State.phys_setCell_of_ge (s : State) (a : DataAddr) (v : Byte) {p : PhysCell} (h : 512 ≤ p.toNat) :
    (s.setCell a v).phys p = s.phys p := by
  unfold State.setCell
  rw [State.phys_setPhys, if_neg]
  rintro rfl
  exact absurd (cellOf_lt a) (by omega)

@[simp] theorem State.cell_setCell_self (s : State) (a : DataAddr) (v : Byte) : (s.setCell a v).cell a = v := by
  simp [State.cell_setCell]

theorem State.cell_setCell_ne (s : State) {a b : DataAddr} (h : b ≠ a) (v : Byte) :
    (s.setCell a v).cell b = s.cell b := by
  simp [State.cell_setCell, h]

/-! Fields under the register writes, which are cell writes (R27) -/

@[simp] theorem State.setAcc_pc (s : State) (v : Byte) : (s.setAcc v).pc = s.pc := rfl
@[simp] theorem State.setPsw_pc (s : State) (v : Byte) : (s.setPsw v).pc = s.pc := rfl
@[simp] theorem State.setB_pc (s : State) (v : Byte) : (s.setB v).pc = s.pc := rfl
@[simp] theorem State.setC_pc (s : State) (v : Byte) : (s.setC v).pc = s.pc := rfl
@[simp] theorem State.setSp_pc (s : State) (v : Byte) : (s.setSp v).pc = s.pc := rfl
@[simp] theorem State.setCy_pc (s : State) (v : Bool) : (s.setCy v).pc = s.pc := rfl
@[simp] theorem State.setAc_pc (s : State) (v : Bool) : (s.setAc v).pc = s.pc := rfl
@[simp] theorem State.setOv_pc (s : State) (v : Bool) : (s.setOv v).pc = s.pc := rfl
@[simp] theorem State.setFlags_pc (s : State) (f : Flags) : (s.setFlags f).pc = s.pc := rfl

@[simp] theorem State.setAcc_rom (s : State) (v : Byte) : (s.setAcc v).rom = s.rom := rfl
@[simp] theorem State.setPsw_rom (s : State) (v : Byte) : (s.setPsw v).rom = s.rom := rfl
@[simp] theorem State.setB_rom (s : State) (v : Byte) : (s.setB v).rom = s.rom := rfl
@[simp] theorem State.setC_rom (s : State) (v : Byte) : (s.setC v).rom = s.rom := rfl
@[simp] theorem State.setSp_rom (s : State) (v : Byte) : (s.setSp v).rom = s.rom := rfl
@[simp] theorem State.setCy_rom (s : State) (v : Bool) : (s.setCy v).rom = s.rom := rfl
@[simp] theorem State.setAc_rom (s : State) (v : Bool) : (s.setAc v).rom = s.rom := rfl
@[simp] theorem State.setOv_rom (s : State) (v : Bool) : (s.setOv v).rom = s.rom := rfl
@[simp] theorem State.setFlags_rom (s : State) (f : Flags) : (s.setFlags f).rom = s.rom := rfl

@[simp] theorem State.setAcc_intHold (s : State) (v : Byte) : (s.setAcc v).intHold = s.intHold := rfl
@[simp] theorem State.setPsw_intHold (s : State) (v : Byte) : (s.setPsw v).intHold = s.intHold := rfl
@[simp] theorem State.setB_intHold (s : State) (v : Byte) : (s.setB v).intHold = s.intHold := rfl
@[simp] theorem State.setC_intHold (s : State) (v : Byte) : (s.setC v).intHold = s.intHold := rfl
@[simp] theorem State.setSp_intHold (s : State) (v : Byte) : (s.setSp v).intHold = s.intHold := rfl
@[simp] theorem State.setCy_intHold (s : State) (v : Bool) : (s.setCy v).intHold = s.intHold := rfl
@[simp] theorem State.setAc_intHold (s : State) (v : Bool) : (s.setAc v).intHold = s.intHold := rfl
@[simp] theorem State.setOv_intHold (s : State) (v : Bool) : (s.setOv v).intHold = s.intHold := rfl
@[simp] theorem State.setFlags_intHold (s : State) (f : Flags) : (s.setFlags f).intHold = s.intHold := rfl

@[simp] theorem State.setAcc_deviceCells (s : State) (v : Byte) : (s.setAcc v).deviceCells = s.deviceCells := rfl
@[simp] theorem State.setPsw_deviceCells (s : State) (v : Byte) : (s.setPsw v).deviceCells = s.deviceCells := rfl
@[simp] theorem State.setB_deviceCells (s : State) (v : Byte) : (s.setB v).deviceCells = s.deviceCells := rfl
@[simp] theorem State.setC_deviceCells (s : State) (v : Byte) : (s.setC v).deviceCells = s.deviceCells := rfl
@[simp] theorem State.setSp_deviceCells (s : State) (v : Byte) : (s.setSp v).deviceCells = s.deviceCells := rfl
@[simp] theorem State.setCy_deviceCells (s : State) (v : Bool) : (s.setCy v).deviceCells = s.deviceCells := rfl
@[simp] theorem State.setAc_deviceCells (s : State) (v : Bool) : (s.setAc v).deviceCells = s.deviceCells := rfl
@[simp] theorem State.setOv_deviceCells (s : State) (v : Bool) : (s.setOv v).deviceCells = s.deviceCells := rfl
@[simp] theorem State.setFlags_deviceCells (s : State) (f : Flags) :
    (s.setFlags f).deviceCells = s.deviceCells := rfl

@[simp] theorem State.setAcc_intSources (s : State) (v : Byte) : (s.setAcc v).intSources = s.intSources := rfl
@[simp] theorem State.setPsw_intSources (s : State) (v : Byte) : (s.setPsw v).intSources = s.intSources := rfl
@[simp] theorem State.setB_intSources (s : State) (v : Byte) : (s.setB v).intSources = s.intSources := rfl
@[simp] theorem State.setC_intSources (s : State) (v : Byte) : (s.setC v).intSources = s.intSources := rfl
@[simp] theorem State.setSp_intSources (s : State) (v : Byte) : (s.setSp v).intSources = s.intSources := rfl
@[simp] theorem State.setCy_intSources (s : State) (v : Bool) : (s.setCy v).intSources = s.intSources := rfl
@[simp] theorem State.setAc_intSources (s : State) (v : Bool) : (s.setAc v).intSources = s.intSources := rfl
@[simp] theorem State.setOv_intSources (s : State) (v : Bool) : (s.setOv v).intSources = s.intSources := rfl
@[simp] theorem State.setFlags_intSources (s : State) (f : Flags) :
    (s.setFlags f).intSources = s.intSources := rfl

@[simp] theorem State.setAcc_requests (s : State) (v : Byte) : (s.setAcc v).requests = s.requests := rfl
@[simp] theorem State.setPsw_requests (s : State) (v : Byte) : (s.setPsw v).requests = s.requests := rfl
@[simp] theorem State.setB_requests (s : State) (v : Byte) : (s.setB v).requests = s.requests := rfl
@[simp] theorem State.setC_requests (s : State) (v : Byte) : (s.setC v).requests = s.requests := rfl
@[simp] theorem State.setSp_requests (s : State) (v : Byte) : (s.setSp v).requests = s.requests := rfl
@[simp] theorem State.setCy_requests (s : State) (v : Bool) : (s.setCy v).requests = s.requests := rfl
@[simp] theorem State.setAc_requests (s : State) (v : Bool) : (s.setAc v).requests = s.requests := rfl
@[simp] theorem State.setOv_requests (s : State) (v : Bool) : (s.setOv v).requests = s.requests := rfl
@[simp] theorem State.setFlags_requests (s : State) (f : Flags) : (s.setFlags f).requests = s.requests := rfl

@[simp] theorem State.setAcc_params (s : State) (v : Byte) : (s.setAcc v).params = s.params := rfl
@[simp] theorem State.setPsw_params (s : State) (v : Byte) : (s.setPsw v).params = s.params := rfl
@[simp] theorem State.setB_params (s : State) (v : Byte) : (s.setB v).params = s.params := rfl
@[simp] theorem State.setC_params (s : State) (v : Byte) : (s.setC v).params = s.params := rfl
@[simp] theorem State.setSp_params (s : State) (v : Byte) : (s.setSp v).params = s.params := rfl
@[simp] theorem State.setCy_params (s : State) (v : Bool) : (s.setCy v).params = s.params := rfl
@[simp] theorem State.setAc_params (s : State) (v : Bool) : (s.setAc v).params = s.params := rfl
@[simp] theorem State.setOv_params (s : State) (v : Bool) : (s.setOv v).params = s.params := rfl
@[simp] theorem State.setFlags_params (s : State) (v : Flags) : (s.setFlags v).params = s.params := rfl

/-! Fields under advance and branch targets -/

@[simp] theorem State.advance_pc (s : State) (n : Nat) : (s.advance n).pc = s.next n := rfl
@[simp] theorem State.advance_data (s : State) (n : Nat) : (s.advance n).data = s.data := rfl
@[simp] theorem State.advance_rom (s : State) (n : Nat) : (s.advance n).rom = s.rom := rfl
@[simp] theorem State.advance_intHold (s : State) (n : Nat) : (s.advance n).intHold = s.intHold := rfl
@[simp] theorem State.advance_deviceCells (s : State) (n : Nat) : (s.advance n).deviceCells = s.deviceCells := rfl
@[simp] theorem State.advance_intSources (s : State) (n : Nat) : (s.advance n).intSources = s.intSources := rfl
@[simp] theorem State.advance_requests (s : State) (n : Nat) : (s.advance n).requests = s.requests := rfl
@[simp] theorem State.advance_params (s : State) (n : Nat) : (s.advance n).params = s.params := rfl
@[simp] theorem State.advance_phys (s : State) (n : Nat) (p : PhysCell) : (s.advance n).phys p = s.phys p := rfl
@[simp] theorem State.advance_cell (s : State) (n : Nat) (a : DataAddr) : (s.advance n).cell a = s.cell a := rfl

/-! Registers are cells (R27): a cell of a register write, and registers as cells -/

theorem State.acc_eq (s : State) : s.acc = s.cell s.params.addrAcc := rfl
theorem State.psw_eq (s : State) : s.psw = s.cell s.params.addrPsw := rfl
theorem State.b_eq (s : State) : s.b = s.cell s.params.addrB := rfl
theorem State.c_eq (s : State) : s.c = s.cell s.params.addrC := rfl
theorem State.trl_eq (s : State) : s.trl = s.cell s.params.addrTrl := rfl
theorem State.trh_eq (s : State) : s.trh = s.cell s.params.addrTrh := rfl
theorem State.sp_eq (s : State) : s.sp = s.cell s.params.addrSp := rfl

theorem State.setAcc_eq (s : State) (v : Byte) : s.setAcc v = s.setCell s.params.addrAcc v := rfl
theorem State.setPsw_eq (s : State) (v : Byte) : s.setPsw v = s.setCell s.params.addrPsw v := rfl
theorem State.setB_eq (s : State) (v : Byte) : s.setB v = s.setCell s.params.addrB v := rfl
theorem State.setC_eq (s : State) (v : Byte) : s.setC v = s.setCell s.params.addrC v := rfl
theorem State.setSp_eq (s : State) (v : Byte) : s.setSp v = s.setCell s.params.addrSp v := rfl

theorem State.cell_setAcc (s : State) (v : Byte) (a : DataAddr) :
    (s.setAcc v).cell a = if a = s.params.addrAcc then v else s.cell a := State.cell_setCell ..
theorem State.cell_setPsw (s : State) (v : Byte) (a : DataAddr) :
    (s.setPsw v).cell a = if a = s.params.addrPsw then v else s.cell a := State.cell_setCell ..
theorem State.cell_setB (s : State) (v : Byte) (a : DataAddr) :
    (s.setB v).cell a = if a = s.params.addrB then v else s.cell a := State.cell_setCell ..
theorem State.cell_setC (s : State) (v : Byte) (a : DataAddr) :
    (s.setC v).cell a = if a = s.params.addrC then v else s.cell a := State.cell_setCell ..
theorem State.cell_setSp (s : State) (v : Byte) (a : DataAddr) :
    (s.setSp v).cell a = if a = s.params.addrSp then v else s.cell a := State.cell_setCell ..

/-- psw after the three flags are written, one bit at a time (R24). -/
theorem State.cell_setFlags (s : State) (f : Flags) (a : DataAddr) :
    (s.setFlags f).cell a =
      if a = s.params.addrPsw then
        setBit (setBit (setBit s.psw s.params.bitCy.toNat f.cy) s.params.bitAc.toNat f.ac) s.params.bitOv.toNat f.ov
      else s.cell a := by
  by_cases h : a = s.params.addrPsw
  · subst h
    simp [State.setFlags, State.setCy, State.setAc, State.setOv, State.psw, State.setPsw]
  · simp [State.setFlags, State.setCy, State.setAc, State.setOv, State.cell_setPsw, h]

theorem State.cell_setCy (s : State) (v : Bool) (a : DataAddr) :
    (s.setCy v).cell a = if a = s.params.addrPsw then setBit s.psw s.params.bitCy.toNat v else s.cell a :=
  State.cell_setPsw ..

theorem State.cell_setOv (s : State) (v : Bool) (a : DataAddr) :
    (s.setOv v).cell a = if a = s.params.addrPsw then setBit s.psw s.params.bitOv.toNat v else s.cell a :=
  State.cell_setPsw ..

/-! BankMap (R51) -/

/-- Where the data space is flat every access kind sees the cell of its address. -/
theorem State.bank_flat {s : State} (h : s.params.bankMap = []) (k : Access) (a : DataAddr) :
    s.bank k a = a.setWidth 16 := by simp [State.bank, h]

theorem State.view_flat {s : State} (h : s.params.bankMap = []) (k : Access) (a : DataAddr) :
    s.view k a = s.cell a := by simp [State.view, State.cell, State.bank_flat h]

theorem State.store_flat {s : State} (h : s.params.bankMap = []) (k : Access) (a : DataAddr) (v : Byte) :
    s.store k a v = s.setCell a v := by simp [State.store, State.setCell, State.bank_flat h]

/-! The layout of the parameters -/

/-- What a layout as the spec's machine has it says (R7, R51, R58). -/
theorem Params.laidOut_iff (p : Params) :
    p.laidOut = true ↔
      p.registerCells.Nodup ∧ (∀ a ∈ p.registerCells, 256 ≤ a.toNat) ∧ p.flagBits.Nodup ∧ p.bankMap = [] := by
  simp [Params.laidOut, and_assoc]

theorem State.bankMap_of_laidOut {s : State} (h : s.laidOut = true) : s.params.bankMap = [] :=
  ((Params.laidOut_iff _).mp h).2.2.2

theorem State.register_ge_of_laidOut {s : State} (h : s.laidOut = true) {a : DataAddr}
    (ha : a ∈ s.params.registerCells) : 256 ≤ a.toNat :=
  ((Params.laidOut_iff _).mp h).2.1 a ha

theorem State.sp_ge_of_laidOut {s : State} (h : s.laidOut = true) : 256 ≤ s.params.addrSp.toNat :=
  State.register_ge_of_laidOut h (by simp [Params.registerCells])

/-- The three flags are three bits of psw. -/
theorem State.flagBits_ne_of_laidOut {s : State} (h : s.laidOut = true) :
    s.params.bitCy.toNat ≠ s.params.bitAc.toNat ∧ s.params.bitCy.toNat ≠ s.params.bitOv.toNat ∧
      s.params.bitAc.toNat ≠ s.params.bitOv.toNat := by
  have := ((Params.laidOut_iff _).mp h).2.2.1
  simp only [Params.flagBits, List.nodup_cons, List.mem_cons, List.not_mem_nil, or_false, not_or,
    not_false_eq_true, List.nodup_nil, and_true] at this
  simp only [ne_eq, BitVec.toNat_inj]
  exact ⟨this.1.1, this.1.2, this.2⟩

/-- The cells of two registers are two cells. -/
theorem State.registers_ne_of_laidOut {s : State} (h : s.laidOut = true) :
    (s.params.addrAcc ≠ s.params.addrPsw ∧ s.params.addrAcc ≠ s.params.addrB ∧
      s.params.addrAcc ≠ s.params.addrC ∧ s.params.addrAcc ≠ s.params.addrTrl ∧
      s.params.addrAcc ≠ s.params.addrTrh ∧ s.params.addrAcc ≠ s.params.addrSp) ∧
    (s.params.addrPsw ≠ s.params.addrB ∧ s.params.addrPsw ≠ s.params.addrC ∧
      s.params.addrPsw ≠ s.params.addrTrl ∧ s.params.addrPsw ≠ s.params.addrTrh ∧
      s.params.addrPsw ≠ s.params.addrSp) ∧
    (s.params.addrB ≠ s.params.addrC ∧ s.params.addrB ≠ s.params.addrTrl ∧
      s.params.addrB ≠ s.params.addrTrh ∧ s.params.addrB ≠ s.params.addrSp) ∧
    (s.params.addrC ≠ s.params.addrTrl ∧ s.params.addrC ≠ s.params.addrTrh ∧
      s.params.addrC ≠ s.params.addrSp) := by
  have := ((Params.laidOut_iff _).mp h).1
  simp only [Params.registerCells, List.nodup_cons, List.mem_cons, List.not_mem_nil, or_false, not_or,
    not_false_eq_true, List.nodup_nil, and_true] at this
  obtain ⟨h1, h2, h3, h4, -⟩ := this
  exact ⟨h1, h2, h3, h4⟩

/-! The canonical form -/

theorem State.wf_iff (s : State) :
    s.wf = true ↔ Memory.wf s.dataSize s.data = true ∧ Memory.wf 65536 s.rom = true := by
  simp [State.wf]

/-- A write of a cell that exists keeps the canonical form. -/
theorem State.wf_setPhys {s : State} {p : PhysCell} (v : Byte) (hp : p.toNat < s.dataSize) (h : s.wf = true) :
    (s.setPhys p v).wf = true := by
  obtain ⟨hd, hr⟩ := (State.wf_iff s).mp h
  exact (State.wf_iff _).mpr ⟨Memory.wf_write v hp hd, hr⟩

/-- A register's cell exists. -/
theorem State.wf_setCell {s : State} (a : DataAddr) (v : Byte) (h : s.wf = true) : (s.setCell a v).wf = true := by
  refine State.wf_setPhys v ?_ h
  have := cellOf_lt a
  unfold State.dataSize
  split <;> omega

/-- BankMap gives a cell that exists. -/
theorem State.wf_store {s : State} (k : Access) (a : DataAddr) (v : Byte) (h : s.wf = true) :
    (s.store k a v).wf = true := by
  refine State.wf_setPhys v ?_ h
  unfold State.dataSize
  split
  · next hf => rw [State.bank_flat hf]; exact cellOf_lt a
  · exact (s.bank k a).isLt

@[simp] theorem State.wf_setPc (s : State) (t : CodeAddr) : (s.setPc t).wf = s.wf := rfl
@[simp] theorem State.wf_setIntHold (s : State) (v : Bool) : (s.setIntHold v).wf = s.wf := rfl
@[simp] theorem State.wf_advance (s : State) (n : Nat) : (s.advance n).wf = s.wf := rfl

/-! No stack cell is a register's (R58) -/

theorem stackCell_lt (sp : Byte) : (stackCell sp).toNat < 256 := by
  simp [stackCell]; omega

theorem stackCell_ne_register (sp : Byte) {a : DataAddr} (h : 256 ≤ a.toNat) : stackCell sp ≠ a := by
  intro e
  have := stackCell_lt sp
  rw [e] at this
  omega

theorem stackCell_inj {p q : Byte} (h : stackCell p = stackCell q) : p = q := by
  have := congrArg BitVec.toNat h
  simp [stackCell] at this
  exact BitVec.eq_of_toNat_eq (by omega)

end Sys2Proof.Machine
end

