-- ==== Sys2Proof/Laws/Flags.lean ====
section
/-! SUPPORT. The bits of psw under flag writes (R24). -/

namespace Sys2Proof.Machine

/-- A bit write is seen at its own bit and nowhere else. -/
theorem getLsbD_setBit (x : Byte) {n : Nat} (hn : n < 8) (v : Bool) (m : Nat) :
    (setBit x n v).getLsbD m = if m = n then v else x.getLsbD m := by
  cases v
  · by_cases h : m = n
    · simp [setBit, h, hn]
    · by_cases hm : m < 8
      · by_cases hlt : m < n
        · simp [setBit, h, hm, hlt]
        · have : m - n ≠ 0 := by omega
          simp [setBit, h, hm, hlt, this]
      · simp [h, BitVec.getLsbD_of_ge _ m (by omega : 8 ≤ m)]
  · by_cases h : m = n
    · simp [setBit, h, hn]
    · by_cases hm : m < 8
      · by_cases hlt : m < n
        · simp [setBit, h, hm, hlt]
        · have : m - n ≠ 0 := by omega
          simp [setBit, h, hm, hlt, this]
      · simp [h, BitVec.getLsbD_of_ge _ m (by omega : 8 ≤ m)]

/-- The flags after the three are written. -/
theorem State.flags_setFlags {s : State} (h : s.laidOut = true) (f : Flags) :
    (s.setFlags f).cy = f.cy ∧ (s.setFlags f).ac = f.ac ∧ (s.setFlags f).ov = f.ov := by
  obtain ⟨hca, hco, hao⟩ := State.flagBits_ne_of_laidOut h
  simp only [State.cy, State.ac, State.ov, State.psw_eq, State.cell_setFlags, State.setFlags_params, if_true]
  refine ⟨?_, ?_, ?_⟩
  · rw [getLsbD_setBit _ (BitVec.isLt _), if_neg hco, getLsbD_setBit _ (BitVec.isLt _), if_neg hca,
      getLsbD_setBit _ (BitVec.isLt _), if_pos rfl]
  · rw [getLsbD_setBit _ (BitVec.isLt _), if_neg hao, getLsbD_setBit _ (BitVec.isLt _), if_pos rfl]
  · rw [getLsbD_setBit _ (BitVec.isLt _), if_pos rfl]

theorem State.cy_setCy (s : State) (v : Bool) : (s.setCy v).cy = v := by
  rw [State.cy, State.psw_eq, State.cell_setCy, State.setCy_params, if_pos rfl, getLsbD_setBit _ (BitVec.isLt _), if_pos rfl]

theorem State.ov_setOv (s : State) (v : Bool) : (s.setOv v).ov = v := by
  rw [State.ov, State.psw_eq, State.cell_setOv, State.setOv_params, if_pos rfl, getLsbD_setBit _ (BitVec.isLt _), if_pos rfl]

/-- The bits of psw that are not cy, under a write of cy. -/
theorem State.psw_setCy_getLsbD (s : State) (v : Bool) {m : Nat} (h : m ≠ s.params.bitCy.toNat) :
    (s.setCy v).psw.getLsbD m = s.psw.getLsbD m := by
  rw [State.psw_eq, State.cell_setCy, State.setCy_params, if_pos rfl, getLsbD_setBit _ (BitVec.isLt _), if_neg h]

/-- The bits of psw that are not ov, under a write of ov. -/
theorem State.psw_setOv_getLsbD (s : State) (v : Bool) {m : Nat} (h : m ≠ s.params.bitOv.toNat) :
    (s.setOv v).psw.getLsbD m = s.psw.getLsbD m := by
  rw [State.psw_eq, State.cell_setOv, State.setOv_params, if_pos rfl, getLsbD_setBit _ (BitVec.isLt _), if_neg h]

/-- The bits of psw that are none of the three flags, under a write of the three. -/
theorem State.psw_setFlags_getLsbD (s : State) (f : Flags) {m : Nat} (hc : m ≠ s.params.bitCy.toNat)
    (ha : m ≠ s.params.bitAc.toNat) (ho : m ≠ s.params.bitOv.toNat) :
    (s.setFlags f).psw.getLsbD m = s.psw.getLsbD m := by
  rw [State.psw_eq, State.cell_setFlags, State.setFlags_params, if_pos rfl, getLsbD_setBit _ (BitVec.isLt _), if_neg ho,
    getLsbD_setBit _ (BitVec.isLt _), if_neg ha, getLsbD_setBit _ (BitVec.isLt _), if_neg hc]

end Sys2Proof.Machine
end

