-- ==== Sys2Proof/Laws/Ops.lean ====
section
/-! SUPPORT. For each shared operation, one lemma that says everything it can do. -/

namespace Sys2Proof.Machine

/-! andThen -/

@[simp] theorem andThen_next {α β : Type} (a : α) (k : α → Host.Outcome β Fault Refusal) :
    andThen (.next a) k = k a := rfl
@[simp] theorem andThen_refused {α β : Type} (e : Refusal) (k : α → Host.Outcome β Fault Refusal) :
    andThen (.refused e) k = .refused e := rfl

/-- If a sequence answers, its first part answered and its second part answered on that. -/
theorem andThen_eq_next {α β : Type} {r : Host.Outcome α Fault Refusal} {k : α → Host.Outcome β Fault Refusal}
    {b : β} : andThen r k = .next b ↔ ∃ a, r = .next a ∧ k a = .next b := by
  cases r <;> simp [andThen]

/-- The same where the second part always answers. -/
theorem andThen_pure_eq_next {α β : Type} {r : Host.Outcome α Fault Refusal} {f : α → β} {b : β} :
    andThen r (fun a => .next (f a)) = .next b ↔ ∃ a, r = .next a ∧ b = f a := by
  simp only [andThen_eq_next, Host.Outcome.next.injEq, eq_comm (a := b)]

/-! Accesses (R52, R53) -/

/-- A read answers exactly what its kind sees, where the cell is no device. -/
theorem readVia_eq_next {k : Access} {a : DataAddr} {s : State} {v : Byte} :
    readVia k a s = .next v ↔ s.isDevice a = false ∧ v = s.view k a := by
  unfold readVia
  cases s.isDevice a <;> simp [eq_comm]

/-- A write answers exactly the state its kind writes, where the cell is no device. -/
theorem writeVia_eq_next {k : Access} {a : DataAddr} {v : Byte} {s t : State} :
    writeVia k a v s = .next t ↔ s.isDevice a = false ∧ t = s.store k a v := by
  unfold writeVia
  cases s.isDevice a <;> simp [eq_comm]

/-- MemRead answers exactly the cell's content, where the cell is no device. -/
theorem memRead_eq_next {a : DataAddr} {s : State} {v : Byte} :
    memRead a s = .next v ↔ s.isDevice a = false ∧ v = s.view .read a := readVia_eq_next

/-- MemWrite answers exactly the state with the cell written, where the cell is no device. -/
theorem memWrite_eq_next {a : DataAddr} {v : Byte} {s t : State} :
    memWrite a v s = .next t ↔ s.isDevice a = false ∧ t = s.store .write a v := writeVia_eq_next

theorem readVia_of_not_device {k : Access} {a : DataAddr} {s : State} (h : s.isDevice a = false) :
    readVia k a s = .next (s.view k a) := by simp [readVia, h]

theorem writeVia_of_not_device {k : Access} {a : DataAddr} {v : Byte} {s : State} (h : s.isDevice a = false) :
    writeVia k a v s = .next (s.store k a v) := by simp [writeVia, h]

theorem readVia_of_device {k : Access} {a : DataAddr} {s : State} (h : s.isDevice a = true) :
    readVia k a s = .refused (.deviceCell a) := by simp [readVia, h]

theorem writeVia_of_device {k : Access} {a : DataAddr} {v : Byte} {s : State} (h : s.isDevice a = true) :
    writeVia k a v s = .refused (.deviceCell a) := by simp [writeVia, h]

theorem memRead_of_not_device {a : DataAddr} {s : State} (h : s.isDevice a = false) :
    memRead a s = .next (s.view .read a) := readVia_of_not_device h

theorem memWrite_of_not_device {a : DataAddr} {v : Byte} {s : State} (h : s.isDevice a = false) :
    memWrite a v s = .next (s.store .write a v) := writeVia_of_not_device h

theorem memRead_of_device {a : DataAddr} {s : State} (h : s.isDevice a = true) :
    memRead a s = .refused (.deviceCell a) := readVia_of_device h

theorem memWrite_of_device {a : DataAddr} {v : Byte} {s : State} (h : s.isDevice a = true) :
    memWrite a v s = .refused (.deviceCell a) := writeVia_of_device h

/-- On a flat data space MemRead and MemWrite are of the cell at the address (R51). -/
theorem memRead_of_laidOut {a : DataAddr} {s : State} (h : s.laidOut = true) (hd : s.isDevice a = false) :
    memRead a s = .next (s.cell a) := by
  rw [memRead_of_not_device hd, State.view_flat (State.bankMap_of_laidOut h)]

theorem memWrite_of_laidOut {a : DataAddr} {v : Byte} {s : State} (h : s.laidOut = true)
    (hd : s.isDevice a = false) : memWrite a v s = .next (s.setCell a v) := by
  rw [memWrite_of_not_device hd, State.store_flat (State.bankMap_of_laidOut h)]

@[simp] theorem State.isDevice_setCell (s : State) (a b : DataAddr) (v : Byte) :
    (s.setCell a v).isDevice b = s.isDevice b := rfl
@[simp] theorem State.isDevice_store (s : State) (k : Access) (a b : DataAddr) (v : Byte) :
    (s.store k a v).isDevice b = s.isDevice b := rfl
@[simp] theorem State.isDevice_setSp (s : State) (v : Byte) (b : DataAddr) :
    (s.setSp v).isDevice b = s.isDevice b := rfl

@[simp] theorem State.laidOut_setCell (s : State) (a : DataAddr) (v : Byte) :
    (s.setCell a v).laidOut = s.laidOut := rfl
@[simp] theorem State.laidOut_setSp (s : State) (v : Byte) : (s.setSp v).laidOut = s.laidOut := rfl

@[simp] theorem State.sp_setSp (s : State) (v : Byte) : (s.setSp v).sp = v := by
  simp [State.sp, State.setSp]

/-! The stack (R58, R59, R255) -/

/-- Push writes sp and what a push sees where the new sp points, or is refused on that cell. -/
theorem push_eq_next {v : Byte} {s t : State} :
    push v s = .next t ↔
      s.isDevice (stackCell (s.sp + 1)) = false ∧
        t = (s.setSp (s.sp + 1)).store .push (stackCell (s.sp + 1)) v := by
  simp only [push, writeVia_eq_next, State.sp_setSp, State.isDevice_setSp]

/-- Pop answers what a pop sees where sp points and lowers sp, or is refused on that cell. -/
theorem pop_eq_next {s : State} {r : Byte × State} :
    pop s = .next r ↔
      s.isDevice (stackCell s.sp) = false ∧ r = (s.view .pop (stackCell s.sp), s.setSp (s.sp - 1)) := by
  simp only [pop, andThen_eq_next, readVia_eq_next]
  constructor
  · rintro ⟨v, ⟨h, rfl⟩, hr⟩
    exact ⟨h, by simpa [eq_comm] using hr⟩
  · rintro ⟨h, rfl⟩
    exact ⟨_, ⟨h, rfl⟩, rfl⟩

/-- sp is not moved by a push's cell write. -/
theorem State.sp_setCell_stack {s : State} (h : s.laidOut = true) (p : Byte) (v : Byte) :
    (s.setCell (stackCell p) v).sp = s.sp :=
  State.cell_setCell_ne s (Ne.symm (stackCell_ne_register p (State.sp_ge_of_laidOut h))) v

/-- No stack cell is moved by a write of sp. -/
theorem State.cell_setSp_stack {s : State} (h : s.laidOut = true) (v p : Byte) :
    (s.setSp v).cell (stackCell p) = s.cell (stackCell p) :=
  State.cell_setCell_ne s (stackCell_ne_register p (State.sp_ge_of_laidOut h)) v

/-- Pushing an address writes sp and two cells, the low byte in the lower one (R255). -/
theorem pushAddr_eq_next {a : CodeAddr} {s t : State} (h : s.laidOut = true) :
    pushAddr a s = .next t ↔
      s.isDevice (stackCell (s.sp + 1)) = false ∧ s.isDevice (stackCell (s.sp + 1 + 1)) = false ∧
        t = ((((s.setSp (s.sp + 1)).setCell (stackCell (s.sp + 1)) (a.extractLsb' 0 8)).setSp
          (s.sp + 1 + 1)).setCell (stackCell (s.sp + 1 + 1)) (a.extractLsb' 8 8)) := by
  have hf := State.bankMap_of_laidOut h
  have h1 : (s.setSp (s.sp + 1)).laidOut = true := h
  simp only [pushAddr, andThen_eq_next, push_eq_next]
  constructor
  · rintro ⟨s1, ⟨hd1, rfl⟩, hd2, rfl⟩
    simp only [State.store_flat (s := s.setSp _) hf, State.sp_setCell_stack h1, State.sp_setSp,
      State.isDevice_setCell, State.isDevice_setSp] at hd2 ⊢
    exact ⟨hd1, hd2, State.store_flat (by exact hf) ..⟩
  · rintro ⟨hd1, hd2, rfl⟩
    refine ⟨_, ⟨hd1, rfl⟩, ?_⟩
    simp only [State.store_flat (s := s.setSp _) hf, State.sp_setCell_stack h1, State.sp_setSp,
      State.isDevice_setCell, State.isDevice_setSp]
    exact ⟨hd2, (State.store_flat (by exact hf) ..).symm⟩

/-- Popping an address reads two cells, the high byte from the upper one, and lowers sp by two (R255). -/
theorem popAddr_eq_next {s : State} {r : CodeAddr × State} (h : s.laidOut = true) :
    popAddr s = .next r ↔
      s.isDevice (stackCell s.sp) = false ∧ s.isDevice (stackCell (s.sp - 1)) = false ∧
        r = (s.cell (stackCell s.sp) ++ s.cell (stackCell (s.sp - 1)), (s.setSp (s.sp - 1)).setSp (s.sp - 1 - 1)) := by
  have hf := State.bankMap_of_laidOut h
  simp only [popAddr, andThen_eq_next, pop_eq_next]
  constructor
  · rintro ⟨hi, ⟨h1, rfl⟩, lo, ⟨h2, rfl⟩, hr⟩
    simp only [State.sp_setSp, State.isDevice_setSp, State.view_flat hf, State.view_flat (s := s.setSp _) hf,
      State.cell_setSp_stack h] at h2 hr
    exact ⟨h1, h2, by simpa [eq_comm] using hr⟩
  · rintro ⟨h1, h2, rfl⟩
    refine ⟨_, ⟨h1, rfl⟩, _, ⟨?_, rfl⟩, ?_⟩
    · simpa using h2
    · simp only [State.sp_setSp, State.view_flat hf, State.view_flat (s := s.setSp _) hf,
        State.cell_setSp_stack h]

/-! Interrupt entry and the return (R286, R287) -/

/-- Entry pushes pc, sets int_hold and goes to the vector, and does nothing else. -/
theorem enterInterrupt_eq_next {vector : CodeAddr} {s t : State} :
    enterInterrupt vector s = .next t ↔
      ∃ s1, pushAddr s.pc s = .next s1 ∧ t = (s1.setIntHold true).setPc vector :=
  andThen_pure_eq_next

/-- The return pops pc and clears int_hold, and does nothing else. -/
theorem returnFromInterrupt_eq_next {s t : State} :
    returnFromInterrupt s = .next t ↔ ∃ r, popAddr s = .next r ∧ t = (r.2.setPc r.1).setIntHold false :=
  andThen_pure_eq_next

end Sys2Proof.Machine
end

