-- ==== Sys2Proof/Laws/Families.lean ====
section
/-! SUPPORT. For each shared operation of the families, one lemma that says when it answers and what. -/

namespace Sys2Proof.Machine

/-- add and addc (R120, R121). -/
theorem addOp_eq_next {k : Bool} {src : Host.Outcome Byte Fault Refusal} {len : Nat} {s t : State} :
    addOp k src len s = .next t ↔
      ∃ v, src = .next v ∧
        t = ((s.setAcc (addResult s.acc v k)).setFlags (addFlags s.acc v k)).advance len :=
  andThen_pure_eq_next

/-- sub and subc (R122, R123). -/
theorem subOp_eq_next {k : Bool} {src : Host.Outcome Byte Fault Refusal} {len : Nat} {s t : State} :
    subOp k src len s = .next t ↔
      ∃ v, src = .next v ∧
        t = ((s.setAcc (subResult s.acc v k)).setFlags (subFlags s.acc v k)).advance len :=
  andThen_pure_eq_next

/-- inc and dec (R124, R125). -/
theorem modifyOp_eq_next {f : Byte → Byte} {loc : DataAddr} {len : Nat} {s t : State} :
    modifyOp f loc len s = .next t ↔
      s.isDevice loc = false ∧ t = (s.store .write loc (f (s.view .read loc))).advance len := by
  simp only [modifyOp, andThen_eq_next, memRead_eq_next, memWrite_eq_next, Host.Outcome.next.injEq]
  constructor
  · rintro ⟨v, ⟨h, rfl⟩, s1, ⟨_, rfl⟩, rfl⟩; exact ⟨h, rfl⟩
  · rintro ⟨h, rfl⟩; exact ⟨_, ⟨h, rfl⟩, _, ⟨h, rfl⟩, rfl⟩

/-- and, or, xor (R150 to R152). -/
theorem logicOp_eq_next {f : Byte → Byte → Byte} {src : Host.Outcome Byte Fault Refusal} {len : Nat}
    {s t : State} :
    logicOp f src len s = .next t ↔ ∃ v, src = .next v ∧ t = (s.setAcc (f s.acc v)).advance len :=
  andThen_pure_eq_next

/-- clr1, set1, not1 (R157 to R159). -/
theorem bitOp_eq_next {f : Byte → Byte → Byte} {d9 : DataAddr} {b3 : BitVec 3} {s t : State} :
    bitOp f d9 b3 s = .next t ↔
      s.isDevice d9 = false ∧ t = (s.store .write d9 (f (s.view .read d9) (bitMask b3))).advance 2 := by
  simp only [bitOp, andThen_eq_next, memRead_eq_next, memWrite_eq_next, Host.Outcome.next.injEq]
  constructor
  · rintro ⟨v, ⟨h, rfl⟩, s1, ⟨_, rfl⟩, rfl⟩; exact ⟨h, rfl⟩
  · rintro ⟨h, rfl⟩; exact ⟨_, ⟨h, rfl⟩, _, ⟨h, rfl⟩, rfl⟩

/-- ld (R180). -/
theorem loadOp_eq_next {loc : DataAddr} {len : Nat} {s t : State} :
    loadOp loc len s = .next t ↔ s.isDevice loc = false ∧ t = (s.setAcc (s.view .read loc)).advance len := by
  simp only [loadOp, andThen_eq_next, memRead_eq_next, Host.Outcome.next.injEq]
  constructor
  · rintro ⟨v, ⟨h, rfl⟩, rfl⟩; exact ⟨h, rfl⟩
  · rintro ⟨h, rfl⟩; exact ⟨_, ⟨h, rfl⟩, rfl⟩

/-- st and mov (R181, R182). -/
theorem storeOp_eq_next {loc : DataAddr} {v : Byte} {len : Nat} {s t : State} :
    storeOp loc v len s = .next t ↔ s.isDevice loc = false ∧ t = (s.store .write loc v).advance len := by
  simp only [storeOp, andThen_eq_next, memWrite_eq_next, Host.Outcome.next.injEq]
  constructor
  · rintro ⟨s1, ⟨h, rfl⟩, rfl⟩; exact ⟨h, rfl⟩
  · rintro ⟨h, rfl⟩; exact ⟨_, ⟨h, rfl⟩, rfl⟩

/-- xch (R186). -/
theorem exchangeOp_eq_next {loc : DataAddr} {len : Nat} {s t : State} :
    exchangeOp loc len s = .next t ↔
      s.isDevice loc = false ∧ t = ((s.store .write loc s.acc).setAcc (s.view .read loc)).advance len := by
  simp only [exchangeOp, andThen_eq_next, memRead_eq_next, memWrite_eq_next, Host.Outcome.next.injEq]
  constructor
  · rintro ⟨v, ⟨h, rfl⟩, s1, ⟨_, rfl⟩, rfl⟩; exact ⟨h, rfl⟩
  · rintro ⟨h, rfl⟩; exact ⟨_, ⟨h, rfl⟩, _, ⟨h, rfl⟩, rfl⟩

/-- bp and bn (R222, R224). -/
theorem bitBranchOp_eq_next {want : Bool} {d9 : DataAddr} {b3 : BitVec 3} {r8 : Byte} {s t : State} :
    bitBranchOp want d9 b3 r8 s = .next t ↔
      s.isDevice d9 = false ∧ t = s.branch ((s.view .read d9).getLsbD b3.toNat == want) 3 r8 := by
  simp only [bitBranchOp, andThen_eq_next, memRead_eq_next, Host.Outcome.next.injEq]
  constructor
  · rintro ⟨v, ⟨h, rfl⟩, rfl⟩; exact ⟨h, rfl⟩
  · rintro ⟨h, rfl⟩; exact ⟨_, ⟨h, rfl⟩, rfl⟩

/-- bpc (R223): the cell is written only where the bit was 1. -/
theorem execBpc_eq_next {d9 : DataAddr} {b3 : BitVec 3} {r8 : Byte} {s t : State} :
    execBpc d9 b3 r8 s = .next t ↔
      s.isDevice d9 = false ∧
        t = if (s.view .read d9).getLsbD b3.toNat then
              (s.store .write d9 (s.view .read d9 &&& ~~~bitMask b3)).branch true 3 r8
            else s.branch false 3 r8 := by
  unfold execBpc
  cases hd : s.isDevice d9
  · rw [memRead_of_not_device hd, andThen_next]
    cases (s.view .read d9).getLsbD b3.toNat
    · simp [eq_comm]
    · simp [memWrite_of_not_device hd, eq_comm]
  · simp [memRead_of_device hd]

/-- dbnz (R225). -/
theorem decBranchOp_eq_next {loc : DataAddr} {len : Nat} {r8 : Byte} {s t : State} :
    decBranchOp loc len r8 s = .next t ↔
      s.isDevice loc = false ∧
        t = (s.store .write loc (s.view .read loc - 1)).branch (decide (s.view .read loc - 1 ≠ 0)) len r8 := by
  simp only [decBranchOp, andThen_eq_next, memRead_eq_next, memWrite_eq_next, Host.Outcome.next.injEq]
  constructor
  · rintro ⟨v, ⟨h, rfl⟩, s1, ⟨_, rfl⟩, rfl⟩; exact ⟨h, rfl⟩
  · rintro ⟨h, rfl⟩; exact ⟨_, ⟨h, rfl⟩, _, ⟨h, rfl⟩, rfl⟩

/-- be and bne (R226, R227). -/
theorem compareBranchOp_eq_next {want : Bool} {left right : Host.Outcome Byte Fault Refusal} {r8 : Byte}
    {s t : State} :
    compareBranchOp want left right r8 s = .next t ↔
      ∃ a v, left = .next a ∧ right = .next v ∧
        t = (s.setCy (compareCy a v)).branch (decide (a = v) == want) 3 r8 := by
  simp only [compareBranchOp, andThen_eq_next, Host.Outcome.next.injEq]
  constructor
  · rintro ⟨a, ha, v, hv, rfl⟩; exact ⟨a, v, ha, hv, rfl⟩
  · rintro ⟨a, v, ha, hv, rfl⟩; exact ⟨a, ha, v, hv, rfl⟩

/-- push (R184): of a cell that is not sp's; sp and what a push sees where the new sp points are written. -/
theorem execPush_eq_next {d9 : DataAddr} {s t : State} :
    execPush d9 s = .next t ↔
      d9 ≠ s.params.addrSp ∧ s.isDevice d9 = false ∧ s.isDevice (stackCell (s.sp + 1)) = false ∧
        t = ((s.setSp (s.sp + 1)).store .push (stackCell (s.sp + 1))
          ((s.setSp (s.sp + 1)).view .read d9)).advance 2 := by
  by_cases h : d9 = s.params.addrSp
  · simp [execPush, h]
  · simp only [execPush, h, if_false, andThen_eq_next, memRead_eq_next, writeVia_eq_next,
      Host.Outcome.next.injEq, State.isDevice_setSp, State.sp_setSp, ne_eq, not_false_eq_true, true_and]
    constructor
    · rintro ⟨v, ⟨h1, rfl⟩, s1, ⟨h2, rfl⟩, rfl⟩; exact ⟨h1, h2, rfl⟩
    · rintro ⟨h1, h2, rfl⟩; exact ⟨_, ⟨h1, rfl⟩, _, ⟨h2, rfl⟩, rfl⟩

theorem execPush_sp (s : State) : execPush s.params.addrSp s = .refused .pushOfSpCell := by simp [execPush]

/-- pop (R185): into a cell that is not sp's; that cell and sp are written. -/
theorem execPop_eq_next {d9 : DataAddr} {s t : State} :
    execPop d9 s = .next t ↔
      d9 ≠ s.params.addrSp ∧ s.isDevice (stackCell s.sp) = false ∧ s.isDevice d9 = false ∧
        t = ((s.store .write d9 (s.view .pop (stackCell s.sp))).setSp
          ((s.store .write d9 (s.view .pop (stackCell s.sp))).sp - 1)).advance 2 := by
  by_cases h : d9 = s.params.addrSp
  · simp [execPop, h]
  · simp only [execPop, h, if_false, andThen_eq_next, readVia_eq_next, memWrite_eq_next,
      Host.Outcome.next.injEq, ne_eq, not_false_eq_true, true_and]
    constructor
    · rintro ⟨v, ⟨h1, rfl⟩, s1, ⟨h2, rfl⟩, rfl⟩; exact ⟨h1, h2, rfl⟩
    · rintro ⟨h1, h2, rfl⟩; exact ⟨_, ⟨h1, rfl⟩, _, ⟨h2, rfl⟩, rfl⟩

theorem execPop_sp (s : State) : execPop s.params.addrSp s = .refused .popIntoSpCell := by simp [execPop]

/-- call, callf and callr (R255). -/
theorem callOp_eq_next {target : CodeAddr} {len : Nat} {s t : State} :
    callOp target len s = .next t ↔ ∃ s1, pushAddr (s.next len) s = .next s1 ∧ t = s1.setPc target :=
  andThen_pure_eq_next

/-- ret (R253). -/
theorem execRet_eq_next {s t : State} :
    execRet s = .next t ↔ ∃ r, popAddr s = .next r ∧ t = r.2.setPc r.1 :=
  andThen_pure_eq_next

/-- A source operand answers its value (R73). -/
theorem srcImm_eq_next {i8 v : Byte} : srcImm i8 = .next v ↔ v = i8 := by
  simp [srcImm, eq_comm]

theorem srcDir_eq_next {d9 : DataAddr} {s : State} {v : Byte} :
    srcDir d9 s = .next v ↔ s.isDevice d9 = false ∧ v = s.view .read d9 := memRead_eq_next

theorem srcInd_eq_next {i : BitVec 2} {s : State} {v : Byte} :
    srcInd i s = .next v ↔ s.isDevice (s.ea i) = false ∧ v = s.view .read (s.ea i) := memRead_eq_next

/-! Fields under a branch -/

@[simp] theorem State.branch_pc (s : State) (taken : Bool) (len : Nat) (r8 : Byte) :
    (s.branch taken len r8).pc = if taken then target8 (s.next len) r8 else s.next len := rfl
@[simp] theorem State.branch_cell (s : State) (taken : Bool) (len : Nat) (r8 : Byte) (a : DataAddr) :
    (s.branch taken len r8).cell a = s.cell a := rfl
@[simp] theorem State.branch_rom (s : State) (taken : Bool) (len : Nat) (r8 : Byte) :
    (s.branch taken len r8).rom = s.rom := rfl
@[simp] theorem State.branch_intHold (s : State) (taken : Bool) (len : Nat) (r8 : Byte) :
    (s.branch taken len r8).intHold = s.intHold := rfl
@[simp] theorem State.branch_deviceCells (s : State) (taken : Bool) (len : Nat) (r8 : Byte) :
    (s.branch taken len r8).deviceCells = s.deviceCells := rfl
@[simp] theorem State.branch_intSources (s : State) (taken : Bool) (len : Nat) (r8 : Byte) :
    (s.branch taken len r8).intSources = s.intSources := rfl
@[simp] theorem State.branch_requests (s : State) (taken : Bool) (len : Nat) (r8 : Byte) :
    (s.branch taken len r8).requests = s.requests := rfl
@[simp] theorem State.branch_params (s : State) (taken : Bool) (len : Nat) (r8 : Byte) :
    (s.branch taken len r8).params = s.params := rfl
@[simp] theorem State.branch_phys (s : State) (taken : Bool) (len : Nat) (r8 : Byte) (p : PhysCell) :
    (s.branch taken len r8).phys p = s.phys p := rfl
@[simp] theorem State.wf_branch (s : State) (taken : Bool) (len : Nat) (r8 : Byte) :
    (s.branch taken len r8).wf = s.wf := rfl

end Sys2Proof.Machine
end

