-- ==== Sys2Proof/Laws/PerInstr.lean ====
section
/-! SUPPORT. Byte 0 gives the length (spec/30_encoding.md R81), one lemma for each constructor of Instr. -/

namespace Sys2Proof.Laws

/-- The first byte of an instruction's encoding gives the length of the whole encoding (R80, R81). -/
def ByteZeroGivesLength.Statement (i : Instr) : Prop :=
  ∃ b0 rest, encode i = b0 :: rest ∧ firstByteLength b0 = i.length

/-- byte0 of a form with d9[8] in bit 0: both values of the bit. -/
theorem length_dirByte0 {op : BitVec 7} {n : Nat} (h : ∀ x : BitVec 1, firstByteLength (op ++ x) = n)
    (d9 : DataAddr) : firstByteLength (dirByte0 op d9) = n := h _

/-- byte0 of a form with a register number in bits 1..0: its four values. -/
theorem length_indByte0 {op : BitVec 6} {n : Nat} (h : ∀ x : BitVec 2, firstByteLength (op ++ x) = n)
    (i : BitVec 2) : firstByteLength (indByte0 op i) = n := h _

/-- byte0 of a form with d9[8] in bit 4 and b3 in bits 2..0. -/
theorem length_bitByte0 {op : BitVec 3} {n : Nat}
    (h : ∀ (x : BitVec 1) (y : BitVec 3), firstByteLength (op ++ x ++ 1#1 ++ y) = n) (d9 : DataAddr)
    (b3 : BitVec 3) : firstByteLength (bitByte0 op d9 b3) = n := h _ _

/-- byte0 of a form with a12[11] in bit 4 and a12[10:8] in bits 2..0. -/
theorem length_abs12Byte0 {op : BitVec 3} {n : Nat}
    (h : ∀ (x : BitVec 1) (y : BitVec 3), firstByteLength (op ++ x ++ 1#1 ++ y) = n) (a12 : BitVec 12) :
    firstByteLength (abs12Byte0 op a12) = n := h _ _

theorem ByteZeroGivesLength.addImm (i8 : Byte) :
    ByteZeroGivesLength.Statement (.addImm i8) := ⟨_, _, rfl, rfl⟩
theorem ByteZeroGivesLength.addDir (d9 : DataAddr) :
    ByteZeroGivesLength.Statement (.addDir d9) := ⟨_, _, rfl, length_dirByte0 (n := 2) (by decide) d9⟩
theorem ByteZeroGivesLength.addInd (i : BitVec 2) :
    ByteZeroGivesLength.Statement (.addInd i) := ⟨_, _, rfl, length_indByte0 (n := 1) (by decide) i⟩
theorem ByteZeroGivesLength.addcImm (i8 : Byte) :
    ByteZeroGivesLength.Statement (.addcImm i8) := ⟨_, _, rfl, rfl⟩
theorem ByteZeroGivesLength.addcDir (d9 : DataAddr) :
    ByteZeroGivesLength.Statement (.addcDir d9) := ⟨_, _, rfl, length_dirByte0 (n := 2) (by decide) d9⟩
theorem ByteZeroGivesLength.addcInd (i : BitVec 2) :
    ByteZeroGivesLength.Statement (.addcInd i) := ⟨_, _, rfl, length_indByte0 (n := 1) (by decide) i⟩
theorem ByteZeroGivesLength.subImm (i8 : Byte) :
    ByteZeroGivesLength.Statement (.subImm i8) := ⟨_, _, rfl, rfl⟩
theorem ByteZeroGivesLength.subDir (d9 : DataAddr) :
    ByteZeroGivesLength.Statement (.subDir d9) := ⟨_, _, rfl, length_dirByte0 (n := 2) (by decide) d9⟩
theorem ByteZeroGivesLength.subInd (i : BitVec 2) :
    ByteZeroGivesLength.Statement (.subInd i) := ⟨_, _, rfl, length_indByte0 (n := 1) (by decide) i⟩
theorem ByteZeroGivesLength.subcImm (i8 : Byte) :
    ByteZeroGivesLength.Statement (.subcImm i8) := ⟨_, _, rfl, rfl⟩
theorem ByteZeroGivesLength.subcDir (d9 : DataAddr) :
    ByteZeroGivesLength.Statement (.subcDir d9) := ⟨_, _, rfl, length_dirByte0 (n := 2) (by decide) d9⟩
theorem ByteZeroGivesLength.subcInd (i : BitVec 2) :
    ByteZeroGivesLength.Statement (.subcInd i) := ⟨_, _, rfl, length_indByte0 (n := 1) (by decide) i⟩
theorem ByteZeroGivesLength.incDir (d9 : DataAddr) :
    ByteZeroGivesLength.Statement (.incDir d9) := ⟨_, _, rfl, length_dirByte0 (n := 2) (by decide) d9⟩
theorem ByteZeroGivesLength.incInd (i : BitVec 2) :
    ByteZeroGivesLength.Statement (.incInd i) := ⟨_, _, rfl, length_indByte0 (n := 1) (by decide) i⟩
theorem ByteZeroGivesLength.decDir (d9 : DataAddr) :
    ByteZeroGivesLength.Statement (.decDir d9) := ⟨_, _, rfl, length_dirByte0 (n := 2) (by decide) d9⟩
theorem ByteZeroGivesLength.decInd (i : BitVec 2) :
    ByteZeroGivesLength.Statement (.decInd i) := ⟨_, _, rfl, length_indByte0 (n := 1) (by decide) i⟩
theorem ByteZeroGivesLength.mul :
    ByteZeroGivesLength.Statement .mul := ⟨_, _, rfl, rfl⟩
theorem ByteZeroGivesLength.div :
    ByteZeroGivesLength.Statement .div := ⟨_, _, rfl, rfl⟩
theorem ByteZeroGivesLength.andImm (i8 : Byte) :
    ByteZeroGivesLength.Statement (.andImm i8) := ⟨_, _, rfl, rfl⟩
theorem ByteZeroGivesLength.andDir (d9 : DataAddr) :
    ByteZeroGivesLength.Statement (.andDir d9) := ⟨_, _, rfl, length_dirByte0 (n := 2) (by decide) d9⟩
theorem ByteZeroGivesLength.andInd (i : BitVec 2) :
    ByteZeroGivesLength.Statement (.andInd i) := ⟨_, _, rfl, length_indByte0 (n := 1) (by decide) i⟩
theorem ByteZeroGivesLength.orImm (i8 : Byte) :
    ByteZeroGivesLength.Statement (.orImm i8) := ⟨_, _, rfl, rfl⟩
theorem ByteZeroGivesLength.orDir (d9 : DataAddr) :
    ByteZeroGivesLength.Statement (.orDir d9) := ⟨_, _, rfl, length_dirByte0 (n := 2) (by decide) d9⟩
theorem ByteZeroGivesLength.orInd (i : BitVec 2) :
    ByteZeroGivesLength.Statement (.orInd i) := ⟨_, _, rfl, length_indByte0 (n := 1) (by decide) i⟩
theorem ByteZeroGivesLength.xorImm (i8 : Byte) :
    ByteZeroGivesLength.Statement (.xorImm i8) := ⟨_, _, rfl, rfl⟩
theorem ByteZeroGivesLength.xorDir (d9 : DataAddr) :
    ByteZeroGivesLength.Statement (.xorDir d9) := ⟨_, _, rfl, length_dirByte0 (n := 2) (by decide) d9⟩
theorem ByteZeroGivesLength.xorInd (i : BitVec 2) :
    ByteZeroGivesLength.Statement (.xorInd i) := ⟨_, _, rfl, length_indByte0 (n := 1) (by decide) i⟩
theorem ByteZeroGivesLength.rol :
    ByteZeroGivesLength.Statement .rol := ⟨_, _, rfl, rfl⟩
theorem ByteZeroGivesLength.rolc :
    ByteZeroGivesLength.Statement .rolc := ⟨_, _, rfl, rfl⟩
theorem ByteZeroGivesLength.ror :
    ByteZeroGivesLength.Statement .ror := ⟨_, _, rfl, rfl⟩
theorem ByteZeroGivesLength.rorc :
    ByteZeroGivesLength.Statement .rorc := ⟨_, _, rfl, rfl⟩
theorem ByteZeroGivesLength.clr1 (d9 : DataAddr) (b3 : BitVec 3) :
    ByteZeroGivesLength.Statement (.clr1 d9 b3) := ⟨_, _, rfl, length_bitByte0 (n := 2) (by decide) d9 b3⟩
theorem ByteZeroGivesLength.set1 (d9 : DataAddr) (b3 : BitVec 3) :
    ByteZeroGivesLength.Statement (.set1 d9 b3) := ⟨_, _, rfl, length_bitByte0 (n := 2) (by decide) d9 b3⟩
theorem ByteZeroGivesLength.not1 (d9 : DataAddr) (b3 : BitVec 3) :
    ByteZeroGivesLength.Statement (.not1 d9 b3) := ⟨_, _, rfl, length_bitByte0 (n := 2) (by decide) d9 b3⟩
theorem ByteZeroGivesLength.ldDir (d9 : DataAddr) :
    ByteZeroGivesLength.Statement (.ldDir d9) := ⟨_, _, rfl, length_dirByte0 (n := 2) (by decide) d9⟩
theorem ByteZeroGivesLength.ldInd (i : BitVec 2) :
    ByteZeroGivesLength.Statement (.ldInd i) := ⟨_, _, rfl, length_indByte0 (n := 1) (by decide) i⟩
theorem ByteZeroGivesLength.stDir (d9 : DataAddr) :
    ByteZeroGivesLength.Statement (.stDir d9) := ⟨_, _, rfl, length_dirByte0 (n := 2) (by decide) d9⟩
theorem ByteZeroGivesLength.stInd (i : BitVec 2) :
    ByteZeroGivesLength.Statement (.stInd i) := ⟨_, _, rfl, length_indByte0 (n := 1) (by decide) i⟩
theorem ByteZeroGivesLength.movDir (i8 : Byte) (d9 : DataAddr) :
    ByteZeroGivesLength.Statement (.movDir i8 d9) := ⟨_, _, rfl, length_dirByte0 (n := 3) (by decide) d9⟩
theorem ByteZeroGivesLength.movInd (i8 : Byte) (i : BitVec 2) :
    ByteZeroGivesLength.Statement (.movInd i8 i) := ⟨_, _, rfl, length_indByte0 (n := 2) (by decide) i⟩
theorem ByteZeroGivesLength.ldc :
    ByteZeroGivesLength.Statement .ldc := ⟨_, _, rfl, rfl⟩
theorem ByteZeroGivesLength.push (d9 : DataAddr) :
    ByteZeroGivesLength.Statement (.push d9) := ⟨_, _, rfl, length_dirByte0 (n := 2) (by decide) d9⟩
theorem ByteZeroGivesLength.pop (d9 : DataAddr) :
    ByteZeroGivesLength.Statement (.pop d9) := ⟨_, _, rfl, length_dirByte0 (n := 2) (by decide) d9⟩
theorem ByteZeroGivesLength.xchDir (d9 : DataAddr) :
    ByteZeroGivesLength.Statement (.xchDir d9) := ⟨_, _, rfl, length_dirByte0 (n := 2) (by decide) d9⟩
theorem ByteZeroGivesLength.xchInd (i : BitVec 2) :
    ByteZeroGivesLength.Statement (.xchInd i) := ⟨_, _, rfl, length_indByte0 (n := 1) (by decide) i⟩
theorem ByteZeroGivesLength.ldf :
    ByteZeroGivesLength.Statement .ldf := ⟨_, _, rfl, rfl⟩
theorem ByteZeroGivesLength.stf :
    ByteZeroGivesLength.Statement .stf := ⟨_, _, rfl, rfl⟩
theorem ByteZeroGivesLength.jmp (a12 : BitVec 12) :
    ByteZeroGivesLength.Statement (.jmp a12) := ⟨_, _, rfl, length_abs12Byte0 (n := 2) (by decide) a12⟩
theorem ByteZeroGivesLength.jmpf (a16 : CodeAddr) :
    ByteZeroGivesLength.Statement (.jmpf a16) := ⟨_, _, rfl, rfl⟩
theorem ByteZeroGivesLength.br (r8 : Byte) :
    ByteZeroGivesLength.Statement (.br r8) := ⟨_, _, rfl, rfl⟩
theorem ByteZeroGivesLength.brf (r16 : BitVec 16) :
    ByteZeroGivesLength.Statement (.brf r16) := ⟨_, _, rfl, rfl⟩
theorem ByteZeroGivesLength.bz (r8 : Byte) :
    ByteZeroGivesLength.Statement (.bz r8) := ⟨_, _, rfl, rfl⟩
theorem ByteZeroGivesLength.bnz (r8 : Byte) :
    ByteZeroGivesLength.Statement (.bnz r8) := ⟨_, _, rfl, rfl⟩
theorem ByteZeroGivesLength.bp (d9 : DataAddr) (b3 : BitVec 3) (r8 : Byte) :
    ByteZeroGivesLength.Statement (.bp d9 b3 r8) := ⟨_, _, rfl, length_bitByte0 (n := 3) (by decide) d9 b3⟩
theorem ByteZeroGivesLength.bpc (d9 : DataAddr) (b3 : BitVec 3) (r8 : Byte) :
    ByteZeroGivesLength.Statement (.bpc d9 b3 r8) := ⟨_, _, rfl, length_bitByte0 (n := 3) (by decide) d9 b3⟩
theorem ByteZeroGivesLength.bn (d9 : DataAddr) (b3 : BitVec 3) (r8 : Byte) :
    ByteZeroGivesLength.Statement (.bn d9 b3 r8) := ⟨_, _, rfl, length_bitByte0 (n := 3) (by decide) d9 b3⟩
theorem ByteZeroGivesLength.dbnzDir (d9 : DataAddr) (r8 : Byte) :
    ByteZeroGivesLength.Statement (.dbnzDir d9 r8) := ⟨_, _, rfl, length_dirByte0 (n := 3) (by decide) d9⟩
theorem ByteZeroGivesLength.dbnzInd (i : BitVec 2) (r8 : Byte) :
    ByteZeroGivesLength.Statement (.dbnzInd i r8) := ⟨_, _, rfl, length_indByte0 (n := 2) (by decide) i⟩
theorem ByteZeroGivesLength.beImm (i8 : Byte) (r8 : Byte) :
    ByteZeroGivesLength.Statement (.beImm i8 r8) := ⟨_, _, rfl, rfl⟩
theorem ByteZeroGivesLength.beDir (d9 : DataAddr) (r8 : Byte) :
    ByteZeroGivesLength.Statement (.beDir d9 r8) := ⟨_, _, rfl, length_dirByte0 (n := 3) (by decide) d9⟩
theorem ByteZeroGivesLength.beInd (i : BitVec 2) (i8 : Byte) (r8 : Byte) :
    ByteZeroGivesLength.Statement (.beInd i i8 r8) := ⟨_, _, rfl, length_indByte0 (n := 3) (by decide) i⟩
theorem ByteZeroGivesLength.bneImm (i8 : Byte) (r8 : Byte) :
    ByteZeroGivesLength.Statement (.bneImm i8 r8) := ⟨_, _, rfl, rfl⟩
theorem ByteZeroGivesLength.bneDir (d9 : DataAddr) (r8 : Byte) :
    ByteZeroGivesLength.Statement (.bneDir d9 r8) := ⟨_, _, rfl, length_dirByte0 (n := 3) (by decide) d9⟩
theorem ByteZeroGivesLength.bneInd (i : BitVec 2) (i8 : Byte) (r8 : Byte) :
    ByteZeroGivesLength.Statement (.bneInd i i8 r8) := ⟨_, _, rfl, length_indByte0 (n := 3) (by decide) i⟩
theorem ByteZeroGivesLength.call (a12 : BitVec 12) :
    ByteZeroGivesLength.Statement (.call a12) := ⟨_, _, rfl, length_abs12Byte0 (n := 2) (by decide) a12⟩
theorem ByteZeroGivesLength.callf (a16 : CodeAddr) :
    ByteZeroGivesLength.Statement (.callf a16) := ⟨_, _, rfl, rfl⟩
theorem ByteZeroGivesLength.callr (r16 : BitVec 16) :
    ByteZeroGivesLength.Statement (.callr r16) := ⟨_, _, rfl, rfl⟩
theorem ByteZeroGivesLength.ret :
    ByteZeroGivesLength.Statement .ret := ⟨_, _, rfl, rfl⟩
theorem ByteZeroGivesLength.reti :
    ByteZeroGivesLength.Statement .reti := ⟨_, _, rfl, rfl⟩
theorem ByteZeroGivesLength.nop :
    ByteZeroGivesLength.Statement .nop := ⟨_, _, rfl, rfl⟩

end Sys2Proof.Laws
end

