-- ==== Sys2Proof/Tests/Slice0.lean ====
section
/-! SUPPORT. Tests. The words, start states and results come from spec/95_test_vectors.md, unless a comment says
that they were worked out by hand from a rule; no result is the model's own answer. After them a witness for every
statement that has hypotheses: concrete states and operands that meet them. -/

namespace Sys2Proof.Tests

open Sys2Proof.Machine Sys2Proof.Claims

/-! What a value must be to fit its field (R112, R114): the largest that fits, the smallest that does not -/

theorem test_fitsD9 : fitsD9 0x1FF = true ∧ fitsD9 0x200 = false := by decide
theorem test_fitsB3 : fitsB3 7 = true ∧ fitsB3 8 = false := by decide
theorem test_fitsI8 : fitsI8 0xFF = true ∧ fitsI8 0x100 = false := by decide
theorem test_fitsA16 : fitsA16 0xFFFF = true ∧ fitsA16 0x10000 = false := by decide
theorem test_fitsReg : fitsReg 3 = true ∧ fitsReg 4 = false := by decide
theorem test_fitsPage : fitsPage 0x3000 0x3FFF = true ∧ fitsPage 0x3000 0x2FFF = false ∧
    fitsPage 0x3000 0x4000 = false := by decide
theorem test_fitsR8 : fitsR8 0x0102 0x0181 = true ∧ fitsR8 0x0102 0x0182 = false ∧
    fitsR8 0x0102 0x0082 = true ∧ fitsR8 0x0102 0x0081 = false := by decide

/-- A line with an ill-formed argument, or with arguments of no form of its mnemonic, does not assemble. -/
theorem test_assemble_refuses :
    assemble 0x100 .add [.immediate 0x100] = none ∧ assemble 0x100 .ld [.direct 0x200] = none ∧
    assemble 0x100 .clr1 [.direct 0x30, .direct 8] = none ∧ assemble 0x100 .st [.indirect 4] = none ∧
    assemble 0x100 .jmp [.direct 0x1000] = none ∧ assemble 0x100 .bz [.direct 0x200] = none ∧
    assemble 0x100 .jmpf [.direct 0x10000] = none ∧ assemble 0x100 .st [.immediate 1] = none := by decide

/-! Decoding and encoding: spec/95_test_vectors.md 2.1 -/

/-- The bytes decode to the instruction, with none left, and the instruction encodes to the bytes. -/
def reads (e : List Byte × Instr) : Bool :=
  match decode e.1 with
  | .ok (i, []) => decide (i = e.2) && decide (encode e.2 = e.1)
  | _ => false

/-- The words of the arithmetic family. -/
theorem test_decode_arithmetic :
    List.all
      [([0x81, 0x45], .addImm 0x45),
       ([0x83, 0x45], .addDir 0x145),
       ([0x87], .addInd 3),
       ([0x91, 0xFF], .addcImm 0xFF),
       ([0x92, 0x7F], .addcDir 0x07F),
       ([0x94], .addcInd 0),
       ([0xA1, 0x01], .subImm 0x01),
       ([0xA3, 0x02], .subDir 0x102),
       ([0xA5], .subInd 1),
       ([0xB1, 0x80], .subcImm 0x80),
       ([0xB3, 0xFF], .subcDir 0x1FF),
       ([0xB6], .subcInd 2),
       ([0x62, 0x00], .incDir 0x000),
       ([0x65], .incInd 1),
       ([0x73, 0x03], .decDir 0x103),
       ([0x76], .decInd 2),
       ([0x30], .mul),
       ([0x40], .div)]
      reads = true := by decide

/-- The words of the bitwise family. -/
theorem test_decode_bitwise :
    List.all
      [([0xE1, 0x0F], .andImm 0x0F),
       ([0xE3, 0x30], .andDir 0x130),
       ([0xE4], .andInd 0),
       ([0xD1, 0x80], .orImm 0x80),
       ([0xD2, 0xAA], .orDir 0x0AA),
       ([0xD7], .orInd 3),
       ([0xF1, 0xFF], .xorImm 0xFF),
       ([0xF3, 0x00], .xorDir 0x100),
       ([0xF5], .xorInd 1),
       ([0xE0], .rol),
       ([0xF0], .rolc),
       ([0xC0], .ror),
       ([0xD0], .rorc),
       ([0xDF, 0x01], .clr1 0x101 7),
       ([0xC8, 0x45], .clr1 0x045 0),
       ([0xEB, 0x30], .set1 0x030 3),
       ([0xFE, 0x4C], .set1 0x14C 6),
       ([0xBB, 0x00], .not1 0x100 3),
       ([0xAD, 0xFF], .not1 0x0FF 5)]
      reads = true := by decide

/-- The words of the memory family. -/
theorem test_decode_memory :
    List.all
      [([0x02, 0x45], .ldDir 0x045),
       ([0x03, 0x45], .ldDir 0x145),
       ([0x06], .ldInd 2),
       ([0x13, 0x06], .stDir 0x106),
       ([0x15], .stInd 1),
       ([0x23, 0x02, 0x55], .movDir 0x55 0x102),
       ([0x22, 0x06, 0x7F], .movDir 0x7F 0x006),
       ([0x24, 0x20], .movInd 0x20 0),
       ([0x27, 0xAA], .movInd 0xAA 3),
       ([0xC1], .ldc),
       ([0x61, 0x00], .push 0x100),
       ([0x60, 0x30], .push 0x030),
       ([0x71, 0x02], .pop 0x102),
       ([0x70, 0xFE], .pop 0x0FE),
       ([0xC3, 0x03], .xchDir 0x103),
       ([0xC6], .xchInd 2),
       ([0x50], .ldf),
       ([0x51], .stf)]
      reads = true := by decide

/-- The words of the jump family. -/
theorem test_decode_jump :
    List.all
      [([0x39, 0x23], .jmp 0x923),
       ([0x28, 0x10], .jmp 0x010),
       ([0x21, 0x12, 0x34], .jmpf 0x1234),
       ([0x01, 0x05], .br 0x05),
       ([0x01, 0xFE], .br 0xFE),
       ([0x01, 0x80], .br 0x80),
       ([0x11, 0x10, 0x01], .brf 0x0110),
       ([0x11, 0xFE, 0xFF], .brf 0xFFFE),
       ([0x11, 0xFE, 0xFD], .brf 0xFDFE)]
      reads = true := by decide

/-- The words of the branch family. -/
theorem test_decode_branch :
    List.all
      [([0x80, 0x04], .bz 0x04),
       ([0x90, 0xFC], .bnz 0xFC),
       ([0x7F, 0x01, 0x10], .bp 0x101 7 0x10),
       ([0x4A, 0x30, 0x08], .bpc 0x030 2 0x08),
       ([0x98, 0x00, 0xED], .bn 0x100 0 0xED),
       ([0x53, 0x03, 0xFD], .dbnzDir 0x103 0xFD),
       ([0x56, 0xFE], .dbnzInd 2 0xFE),
       ([0x31, 0x20, 0x05], .beImm 0x20 0x05),
       ([0x33, 0x45, 0xFD], .beDir 0x145 0xFD),
       ([0x35, 0x09, 0x7D], .beInd 1 0x09 0x7D),
       ([0x41, 0x04, 0xED], .bneImm 0x04 0xED),
       ([0x42, 0x30, 0x00], .bneDir 0x030 0x00),
       ([0x44, 0x09, 0x10], .bneInd 0 0x09 0x10)]
      reads = true := by decide

/-- The words of the call family. -/
theorem test_decode_call :
    List.all
      [([0x0A, 0x34], .call 0x234),
       ([0x1F, 0xFF], .call 0xFFF),
       ([0x20, 0xFE, 0xDC], .callf 0xFEDC),
       ([0x10, 0xFE, 0x01], .callr 0x01FE),
       ([0x10, 0xFE, 0xFE], .callr 0xFEFE),
       ([0xA0], .ret),
       ([0xB0], .reti)]
      reads = true := by decide

/-- The words of the nop family. -/
theorem test_decode_nop :
    List.all
      [([0x00], .nop)]
      reads = true := by decide

/-- A list that ends inside an instruction is rejected, and so is the empty one (R81). -/
theorem test_decode_truncated :
    ([[], [0x81], [0x22, 0x06], [0x21]] : List (List Byte)).all
      (fun l => match decode l with | .error .truncated => true | .ok _ => false) = true := by decide

/-- Words as the opcode table numbers them: byte0 the most significant byte. -/
theorem test_decodeTableWord :
    decodeTableWord 16 0x8145 = some (.addImm 0x45) ∧ decodeTableWord 8 0x87 = some (.addInd 3) ∧
    decodeTableWord 24 0x7F0110 = some (.bp 0x101 7 0x10) ∧ decodeTableWord 16 0x3923 = some (.jmp 0x923) ∧
    decodeTableWord 24 0x10FE01 = some (.callr 0x01FE) := by decide

/-- The fixed bits of byte0 of the 70 forms, as (match, mask), in the order of Instr (R107). -/
def bytePatterns : List (Nat × Nat) :=
  [(0x81, 0xFF), (0x82, 0xFE), (0x84, 0xFC), (0x91, 0xFF), (0x92, 0xFE), (0x94, 0xFC), (0xA1, 0xFF),
   (0xA2, 0xFE), (0xA4, 0xFC), (0xB1, 0xFF), (0xB2, 0xFE), (0xB4, 0xFC), (0x62, 0xFE), (0x64, 0xFC),
   (0x72, 0xFE), (0x74, 0xFC), (0x30, 0xFF), (0x40, 0xFF), (0xE1, 0xFF), (0xE2, 0xFE), (0xE4, 0xFC),
   (0xD1, 0xFF), (0xD2, 0xFE), (0xD4, 0xFC), (0xF1, 0xFF), (0xF2, 0xFE), (0xF4, 0xFC), (0xE0, 0xFF),
   (0xF0, 0xFF), (0xC0, 0xFF), (0xD0, 0xFF), (0xC8, 0xE8), (0xE8, 0xE8), (0xA8, 0xE8), (0x02, 0xFE),
   (0x04, 0xFC), (0x12, 0xFE), (0x14, 0xFC), (0x22, 0xFE), (0x24, 0xFC), (0xC1, 0xFF), (0x60, 0xFE),
   (0x70, 0xFE), (0xC2, 0xFE), (0xC4, 0xFC), (0x50, 0xFF), (0x51, 0xFF), (0x28, 0xE8), (0x21, 0xFF),
   (0x01, 0xFF), (0x11, 0xFF), (0x80, 0xFF), (0x90, 0xFF), (0x68, 0xE8), (0x48, 0xE8), (0x88, 0xE8),
   (0x52, 0xFE), (0x54, 0xFC), (0x31, 0xFF), (0x32, 0xFE), (0x34, 0xFC), (0x41, 0xFF), (0x42, 0xFE),
   (0x44, 0xFC), (0x08, 0xE8), (0x20, 0xFF), (0x10, 0xFF), (0xA0, 0xFF), (0xB0, 0xFF), (0x00, 0xFF)]

/-- Each value of byte0 fits the fixed bits of exactly one of the 70 forms, and the decoder reads that form
(R106, R107, R109). -/
theorem test_byte0_selects_one_form :
    (List.range 256).all (fun n =>
      ((bytePatterns.zipIdx.filter fun e => decide (n &&& e.1.2 = e.1.1)).map fun e => e.2) ==
        [(decode3 (BitVec.ofNat 8 n) 0 0).ctorIdx]) = true := by decide +kernel

/-- Lines of each shape assembled at 0x0100, and their bytes. -/
theorem test_assemble :
    List.all
      [(Mnemonic.add, [Arg.immediate 0x45], [0x81, 0x45]), (.addc, [.direct 0x7F], [0x92, 0x7F]),
       (.sub, [.indirect 1], [0xA5]), (.mul, [], [0x30]), (.clr1, [.direct 0x101, .direct 7], [0xDF, 0x01]),
       (.mov, [.immediate 0x55, .direct 0x102], [0x23, 0x02, 0x55]), (.mov, [.immediate 0xAA, .indirect 3], [0x27, 0xAA]),
       (.push, [.direct 0x30], [0x60, 0x30]), (.jmp, [.direct 0x923], [0x39, 0x23]), (.jmpf, [.direct 0x1234], [0x21, 0x12, 0x34]),
       (.br, [.direct 0x82], [0x01, 0x80]), (.brf, [.direct 0xFF00], [0x11, 0xFE, 0xFD]), (.bz, [.direct 0x106], [0x80, 0x04]),
       (.bnz, [.direct 0xFE], [0x90, 0xFC]), (.bn, [.direct 0x100, .direct 0, .direct 0xF0], [0x98, 0x00, 0xED]),
       (.dbnz, [.direct 0x103, .direct 0x100], [0x53, 0x03, 0xFD]), (.dbnz, [.indirect 2, .direct 0x100], [0x56, 0xFE]),
       (.be, [.indirect 1, .immediate 9, .direct 0x180], [0x35, 0x09, 0x7D]), (.bne, [.direct 0x30, .direct 0x103], [0x42, 0x30, 0x00]),
       (.bne, [.immediate 4, .direct 0xF0], [0x41, 0x04, 0xED]), (.call, [.direct 0xFFF], [0x1F, 0xFF]), (.callr, [.direct 0], [0x10, 0xFE, 0xFE])]
      (fun e => decide ((assemble 0x100 e.1 e.2.1).map encode = some e.2.2)) = true := by decide

/-! One step -/

/-- The state at pc with the bytes in ROM space there and the cells given; 0x00 elsewhere. -/
def start (pc : CodeAddr) (bytes : List Byte) (cells : List (DataAddr × Byte)) : State :=
  cells.foldl (fun s c => s.setCell c.1 c.2)
    { State.reset with pc := pc, rom := placeBytes [] pc bytes }

/-- One more byte of ROM space. -/
def withRom (s : State) (a : CodeAddr) (v : Byte) : State := { s with rom := Memory.write s.rom a.toNat v }

/-- pc and the cells asked for, after a step that goes on. -/
def seen (r : Host.Outcome State Fault Refusal) (cells : List DataAddr) : Option (Nat × List Byte) :=
  match r with
  | .next t => some (t.pc.toNat, cells.map t.cell)
  | .fault _ => none
  | .refused _ => none

/-- The refusal of a step that is refused. -/
def refusal (r : Host.Outcome State Fault Refusal) : Option Refusal :=
  match r with
  | .next _ => none
  | .fault _ => none
  | .refused e => some e

theorem test_add_imm_overflows :
    seen (step (start 0x0000 [0x81, 0x01] [(0x100, 0x7F), (0x101, 0x00)])) [0x100, 0x101] =
      some (0x0002, [0x80, 0x44]) := by decide
theorem test_add_dir_keeps_other_psw_bits :
    seen (step (start 0x0000 [0x82, 0x30] [(0x030, 0x02), (0x100, 0x01), (0x101, 0xFF)])) [0x030, 0x100, 0x101] =
      some (0x0002, [0x02, 0x03, 0x3B]) := by decide
theorem test_add_ind_in_bank_1 :
    seen (step (start 0x0000 [0x85] [(0x005, 0x41), (0x041, 0x04), (0x100, 0x05), (0x101, 0x08)])) [0x005, 0x041, 0x100, 0x101] =
      some (0x0001, [0x41, 0x04, 0x09, 0x08]) := by decide
theorem test_addc_imm_carry_in :
    seen (step (start 0x0000 [0x91, 0x7F] [(0x100, 0x80), (0x101, 0x80)])) [0x100, 0x101] =
      some (0x0002, [0x00, 0xC0]) := by decide
theorem test_addc_dir_reads_old_psw :
    seen (step (start 0x0000 [0x93, 0x01] [(0x100, 0x01), (0x101, 0x80)])) [0x100, 0x101] =
      some (0x0002, [0x82, 0x00]) := by decide
/-- Worked out by hand from R121. -/
theorem test_addc_ind_carry_in :
    seen (step (start 0x0000 [0x94] [(0x100, 0xFF), (0x101, 0x80), (0x000, 0x20), (0x020, 0x00)])) [0x000, 0x020, 0x100, 0x101] =
      some (0x0001, [0x20, 0x00, 0x00, 0xC0]) := by decide
theorem test_sub_imm_borrow_and_overflow :
    seen (step (start 0x0000 [0xA1, 0xB0] [(0x100, 0x50), (0x101, 0x00)])) [0x100, 0x101] =
      some (0x0002, [0xA0, 0x84]) := by decide
theorem test_sub_dir_borrow :
    seen (step (start 0x0000 [0xA2, 0x30] [(0x030, 0x20), (0x100, 0x10), (0x101, 0x3B)])) [0x030, 0x100, 0x101] =
      some (0x0002, [0x20, 0xF0, 0xBB]) := by decide
/-- Worked out by hand from R122. -/
theorem test_sub_ind_half_borrow :
    seen (step (start 0x0000 [0xA5] [(0x100, 0x10), (0x101, 0x00), (0x001, 0x40), (0x040, 0x01)])) [0x001, 0x040, 0x100, 0x101] =
      some (0x0001, [0x40, 0x01, 0x0F, 0x40]) := by decide
theorem test_subc_imm_overflow :
    seen (step (start 0x0000 [0xB1, 0x7F] [(0x100, 0x80), (0x101, 0x80)])) [0x100, 0x101] =
      some (0x0002, [0x00, 0x44]) := by decide
/-- Worked out by hand from R123. -/
theorem test_subc_dir_overflow :
    seen (step (start 0x0000 [0xB2, 0x30] [(0x100, 0x80), (0x101, 0x80), (0x030, 0x7F)])) [0x030, 0x100, 0x101] =
      some (0x0002, [0x7F, 0x00, 0x44]) := by decide
theorem test_subc_ind_high_page :
    seen (step (start 0x0000 [0xB7] [(0x003, 0x04), (0x100, 0x00), (0x101, 0x80), (0x104, 0x01)])) [0x003, 0x100, 0x101, 0x104] =
      some (0x0001, [0x04, 0xFE, 0xC0, 0x01]) := by decide
theorem test_inc_dir_wraps_without_flags :
    seen (step (start 0x0000 [0x62, 0x30] [(0x030, 0xFF), (0x101, 0xC4)])) [0x030, 0x101] =
      some (0x0002, [0x00, 0xC4]) := by decide
theorem test_inc_dir_of_psw :
    seen (step (start 0x0000 [0x63, 0x01] [(0x101, 0x7F)])) [0x101] = some (0x0002, [0x80]) := by decide
theorem test_inc_ind_of_sp :
    seen (step (start 0x0000 [0x67] [(0x003, 0x06), (0x101, 0x00), (0x106, 0x20)])) [0x003, 0x101, 0x106] =
      some (0x0001, [0x06, 0x00, 0x21]) := by decide
theorem test_dec_dir_wraps :
    seen (step (start 0x0000 [0x72, 0x30] [(0x030, 0x00)])) [0x030] = some (0x0002, [0xFF]) := by decide
theorem test_dec_ind_in_bank_2 :
    seen (step (start 0x0000 [0x75] [(0x009, 0x55), (0x055, 0x10), (0x101, 0x10)])) [0x009, 0x055, 0x101] =
      some (0x0001, [0x55, 0x0F, 0x10]) := by decide
theorem test_mul_24_bits :
    seen (step (start 0x0000 [0x30] [(0x100, 0x12), (0x103, 0x34), (0x102, 0x56), (0x101, 0xC4)])) [0x100, 0x101, 0x102, 0x103] =
      some (0x0001, [0x1D, 0x44, 0x06, 0x78]) := by decide
theorem test_mul_by_zero_keeps_other_psw_bits :
    seen (step (start 0x0000 [0x30] [(0x100, 0x01), (0x103, 0x00), (0x102, 0x00), (0x101, 0xFF)])) [0x100, 0x101, 0x102, 0x103] =
      some (0x0001, [0x00, 0x7B, 0x00, 0x00]) := by decide
theorem test_div_quotient_and_remainder :
    seen (step (start 0x0000 [0x40] [(0x100, 0x12), (0x103, 0x34), (0x102, 0x10), (0x101, 0xC0)])) [0x100, 0x101, 0x102, 0x103] =
      some (0x0001, [0x01, 0x40, 0x04, 0x23]) := by decide
theorem test_div_without_remainder_sets_ov :
    seen (step (start 0x0000 [0x40] [(0x100, 0x12), (0x103, 0x30), (0x102, 0x10), (0x101, 0x00)])) [0x100, 0x101, 0x102, 0x103] =
      some (0x0001, [0x01, 0x04, 0x00, 0x23]) := by decide
theorem test_and_imm_keeps_flags :
    seen (step (start 0x0000 [0xE1, 0x00] [(0x100, 0xFF), (0x101, 0xC4)])) [0x100, 0x101] =
      some (0x0002, [0x00, 0xC4]) := by decide
theorem test_and_dir_of_acc :
    seen (step (start 0x0000 [0xE3, 0x00] [(0x100, 0x5A)])) [0x100] = some (0x0002, [0x5A]) := by decide
theorem test_and_ind :
    seen (step (start 0x0000 [0xE4] [(0x000, 0x20), (0x020, 0x81), (0x100, 0xFF), (0x101, 0x00)])) [0x000, 0x020, 0x100, 0x101] =
      some (0x0001, [0x20, 0x81, 0x81, 0x00]) := by decide
theorem test_or_imm :
    seen (step (start 0x0000 [0xD1, 0x0F] [(0x100, 0xF0)])) [0x100] = some (0x0002, [0xFF]) := by decide
theorem test_or_dir :
    seen (step (start 0x0000 [0xD2, 0x30] [(0x030, 0x80), (0x100, 0x01)])) [0x030, 0x100] =
      some (0x0002, [0x80, 0x81]) := by decide
theorem test_or_ind_high_page :
    seen (step (start 0x0000 [0xD6] [(0x002, 0x03), (0x100, 0x01), (0x101, 0x00), (0x103, 0x10)])) [0x002, 0x100, 0x101, 0x103] =
      some (0x0001, [0x03, 0x11, 0x00, 0x10]) := by decide
theorem test_xor_imm :
    seen (step (start 0x0000 [0xF1, 0xFF] [(0x100, 0xA5)])) [0x100] = some (0x0002, [0x5A]) := by decide
theorem test_xor_dir :
    seen (step (start 0x0000 [0xF2, 0x30] [(0x030, 0x0F), (0x100, 0xFF)])) [0x030, 0x100] =
      some (0x0002, [0x0F, 0xF0]) := by decide
theorem test_xor_ind :
    seen (step (start 0x0000 [0xF5] [(0x001, 0x31), (0x031, 0xFF), (0x100, 0x0F), (0x101, 0x00)])) [0x001, 0x031, 0x100, 0x101] =
      some (0x0001, [0x31, 0xFF, 0xF0, 0x00]) := by decide
theorem test_rol_wraps :
    seen (step (start 0x0000 [0xE0] [(0x100, 0x81)])) [0x100] = some (0x0001, [0x03]) := by decide
theorem test_rol_leaves_cy :
    seen (step (start 0x0000 [0xE0] [(0x100, 0x40), (0x101, 0x00)])) [0x100, 0x101] =
      some (0x0001, [0x80, 0x00]) := by decide
theorem test_ror_wraps :
    seen (step (start 0x0000 [0xC0] [(0x100, 0x81)])) [0x100] = some (0x0001, [0xC0]) := by decide
theorem test_ror_leaves_cy :
    seen (step (start 0x0000 [0xC0] [(0x100, 0x01), (0x101, 0x80)])) [0x100, 0x101] =
      some (0x0001, [0x80, 0x80]) := by decide
theorem test_rolc_out :
    seen (step (start 0x0000 [0xF0] [(0x100, 0x80), (0x101, 0x00)])) [0x100, 0x101] =
      some (0x0001, [0x00, 0x80]) := by decide
theorem test_rolc_in :
    seen (step (start 0x0000 [0xF0] [(0x100, 0x01), (0x101, 0x80)])) [0x100, 0x101] =
      some (0x0001, [0x03, 0x00]) := by decide
theorem test_rorc_in :
    seen (step (start 0x0000 [0xD0] [(0x100, 0x02), (0x101, 0x80)])) [0x100, 0x101] =
      some (0x0001, [0x81, 0x00]) := by decide
theorem test_rorc_out :
    seen (step (start 0x0000 [0xD0] [(0x100, 0xFF), (0x101, 0x44)])) [0x100, 0x101] =
      some (0x0001, [0x7F, 0xC4]) := by decide
theorem test_clr1_of_cy :
    seen (step (start 0x0000 [0xDF, 0x01] [(0x101, 0xC4)])) [0x101] = some (0x0002, [0x44]) := by decide
theorem test_clr1_of_acc :
    seen (step (start 0x0000 [0xDB, 0x00] [(0x100, 0xFF)])) [0x100] = some (0x0002, [0xF7]) := by decide
theorem test_set1_of_ov :
    seen (step (start 0x0000 [0xFA, 0x01] [(0x101, 0x80)])) [0x101] = some (0x0002, [0x84]) := by decide
theorem test_set1_bit_7 :
    seen (step (start 0x0000 [0xEF, 0xFF] [(0x0FF, 0x00)])) [0x0FF] = some (0x0002, [0x80]) := by decide
theorem test_not1_of_acc :
    seen (step (start 0x0000 [0xBB, 0x00] [(0x100, 0x0F)])) [0x100] = some (0x0002, [0x07]) := by decide
theorem test_not1_bit_5 :
    seen (step (start 0x0000 [0xAD, 0x30] [(0x030, 0x00)])) [0x030] = some (0x0002, [0x20]) := by decide
theorem test_ld_dir_high_page :
    seen (step (start 0x0000 [0x03, 0x45] [(0x145, 0x11)])) [0x100, 0x145] = some (0x0002, [0x11, 0x11]) := by decide
theorem test_ld_ind_in_bank_3 :
    seen (step (start 0x0000 [0x05] [(0x00D, 0x20), (0x020, 0x44), (0x101, 0x18)])) [0x00D, 0x020, 0x100, 0x101] =
      some (0x0001, [0x20, 0x44, 0x44, 0x18]) := by decide
theorem test_ld_ind_last_cell :
    seen (step (start 0x0000 [0x07] [(0x1FF, 0x77), (0x003, 0xFF), (0x101, 0x00)])) [0x003, 0x100, 0x101, 0x1FF] =
      some (0x0001, [0xFF, 0x77, 0x00, 0x77]) := by decide
theorem test_st_dir_of_psw :
    seen (step (start 0x0000 [0x13, 0x01] [(0x100, 0x80)])) [0x100, 0x101] = some (0x0002, [0x80, 0x80]) := by decide
theorem test_st_ind_overwrites_its_pointer :
    seen (step (start 0x0000 [0x14] [(0x000, 0x00), (0x100, 0x99), (0x101, 0x00)])) [0x000, 0x100, 0x101] =
      some (0x0001, [0x99, 0x99, 0x00]) := by decide
theorem test_st_ind_high_page :
    seen (step (start 0x0000 [0x16] [(0x002, 0x04), (0x100, 0x12), (0x101, 0x00)])) [0x002, 0x100, 0x101, 0x104] =
      some (0x0001, [0x04, 0x12, 0x00, 0x12]) := by decide
theorem test_mov_dir :
    seen (step (start 0x0000 [0x23, 0x02, 0x55] [])) [0x102] = some (0x0003, [0x55]) := by decide
theorem test_mov_dir_of_psw :
    seen (step (start 0x0000 [0x23, 0x01, 0x08] [])) [0x101] = some (0x0003, [0x08]) := by decide
theorem test_mov_ind_high_page :
    seen (step (start 0x0000 [0x27, 0x5A] [(0x003, 0x02), (0x101, 0x00)])) [0x003, 0x101, 0x102] =
      some (0x0002, [0x02, 0x00, 0x5A]) := by decide
theorem test_ldc_adds_acc_unsigned :
    seen (step (withRom (start 0x0000 [0xC1] [(0x100, 0xFF), (0x104, 0xFF), (0x105, 0x12)]) 0x13FE 0x66)) [0x100, 0x104, 0x105] =
      some (0x0001, [0x66, 0xFF, 0x12]) := by decide
theorem test_ldc_wraps :
    seen (step (withRom (start 0x0100 [0xC1] [(0x100, 0x02), (0x104, 0xFF), (0x105, 0xFF)]) 0x0001 0x5D)) [0x100, 0x104, 0x105] =
      some (0x0101, [0x5D, 0xFF, 0xFF]) := by decide
theorem test_push_wraps :
    seen (step (start 0x0000 [0x61, 0x00] [(0x100, 0x11), (0x106, 0xFF)])) [0x000, 0x100, 0x106] =
      some (0x0002, [0x11, 0x11, 0x00]) := by decide
theorem test_push_of_the_cell_pushed_to :
    seen (step (start 0x0000 [0x60, 0x21] [(0x021, 0x5A), (0x106, 0x20)])) [0x021, 0x106] =
      some (0x0002, [0x5A, 0x21]) := by decide
theorem test_pop_of_psw :
    seen (step (start 0x0000 [0x71, 0x01] [(0x021, 0xC4), (0x106, 0x21)])) [0x021, 0x101, 0x106] =
      some (0x0002, [0xC4, 0xC4, 0x20]) := by decide
theorem test_pop_wraps :
    seen (step (start 0x0000 [0x70, 0x30] [(0x000, 0x77), (0x106, 0x00)])) [0x000, 0x030, 0x106] =
      some (0x0002, [0x77, 0x77, 0xFF]) := by decide
theorem test_xch_dir_with_psw :
    seen (step (start 0x0000 [0xC3, 0x01] [(0x100, 0x80), (0x101, 0x04)])) [0x100, 0x101] =
      some (0x0002, [0x04, 0x80]) := by decide
theorem test_xch_ind :
    seen (step (start 0x0000 [0xC6] [(0x002, 0x02), (0x100, 0x01), (0x101, 0x00), (0x102, 0xFE)])) [0x002, 0x100, 0x101, 0x102] =
      some (0x0001, [0x02, 0xFE, 0x00, 0x01]) := by decide
theorem test_ldf_is_refused : refusal (step (start 0x0000 [0x50] [])) = some .flashLoadUnspecified := by decide
theorem test_stf_is_refused : refusal (step (start 0x0000 [0x51] [])) = some .flashStoreUnspecified := by decide
theorem test_jmp_takes_the_page_of_next :
    seen (step (start 0x2FFE [0x28, 0x10] [])) [] = some (0x3010, []) := by decide
theorem test_jmp_next_wraps :
    seen (step (start 0xFFFE [0x38, 0x00] [])) [] = some (0x0800, []) := by decide
theorem test_jmpf_high_byte_first :
    seen (step (start 0x0000 [0x21, 0x12, 0x34] [])) [] = some (0x1234, []) := by decide
theorem test_br_wraps_below_zero :
    seen (step (start 0x0010 [0x01, 0x80] [])) [] = some (0xFF92, []) := by decide
theorem test_br_wraps_above :
    seen (step (start 0xFFF0 [0x01, 0x7F] [])) [] = some (0x0071, []) := by decide
theorem test_brf_low_byte_first :
    seen (step (start 0x0200 [0x11, 0x34, 0x12] [])) [] = some (0x1436, []) := by decide
theorem test_brf_next_wraps :
    seen (step (start 0xFFFD [0x11, 0x01, 0x80] [])) [] = some (0x8000, []) := by decide
theorem test_bz_to_itself :
    seen (step (start 0x0020 [0x80, 0xFE] [(0x100, 0x00)])) [0x100] = some (0x0020, [0x00]) := by decide
theorem test_bz_not_taken :
    seen (step (start 0x0020 [0x80, 0x04] [(0x100, 0x80)])) [0x100] = some (0x0022, [0x80]) := by decide
theorem test_bnz_taken_backwards :
    seen (step (start 0x0020 [0x90, 0xFC] [(0x100, 0x05)])) [0x100] = some (0x001E, [0x05]) := by decide
theorem test_bnz_not_taken :
    seen (step (start 0x0020 [0x90, 0xFC] [(0x100, 0x00)])) [0x100] = some (0x0022, [0x00]) := by decide
theorem test_bp_taken :
    seen (step (start 0x0000 [0x7F, 0x01, 0x10] [(0x101, 0x80)])) [0x101] = some (0x0013, [0x80]) := by decide
theorem test_bp_not_taken :
    seen (step (start 0x0040 [0x68, 0x30, 0xFD] [(0x030, 0xFE)])) [0x030] = some (0x0043, [0xFE]) := by decide
theorem test_bpc_taken_clears :
    seen (step (start 0x0000 [0x5F, 0x01, 0x10] [(0x101, 0xC4)])) [0x101] = some (0x0013, [0x44]) := by decide
theorem test_bpc_not_taken :
    seen (step (start 0x0040 [0x4A, 0x30, 0x08] [(0x030, 0xFB)])) [0x030] = some (0x0043, [0xFB]) := by decide
theorem test_bn_taken :
    seen (step (start 0x0100 [0x9F, 0x01, 0xF0] [(0x101, 0x00)])) [0x101] = some (0x00F3, [0x00]) := by decide
theorem test_bn_not_taken :
    seen (step (start 0x0100 [0x9F, 0x01, 0xF0] [(0x101, 0x80)])) [0x101] = some (0x0103, [0x80]) := by decide
theorem test_dbnz_dir_wraps_and_branches :
    seen (step (start 0x0010 [0x53, 0x03, 0xFD] [(0x103, 0x00)])) [0x103] = some (0x0010, [0xFF]) := by decide
theorem test_dbnz_dir_ends :
    seen (step (start 0x0010 [0x53, 0x03, 0xFD] [(0x103, 0x01)])) [0x103] = some (0x0013, [0x00]) := by decide
theorem test_dbnz_ind_of_its_pointer :
    seen (step (start 0x0000 [0x54, 0x04] [(0x000, 0x00), (0x101, 0x00)])) [0x000, 0x101] =
      some (0x0006, [0xFF, 0x00]) := by decide
theorem test_dbnz_ind_ends :
    seen (step (start 0x0010 [0x54, 0xFE] [(0x000, 0x30), (0x030, 0x01), (0x101, 0x00)])) [0x000, 0x030, 0x101] =
      some (0x0012, [0x30, 0x00, 0x00]) := by decide
theorem test_be_imm_compares_unsigned :
    seen (step (start 0x0000 [0x31, 0x7F, 0x05] [(0x100, 0x80), (0x101, 0x00)])) [0x100, 0x101] =
      some (0x0003, [0x80, 0x00]) := by decide
theorem test_be_imm_taken :
    seen (step (start 0x0000 [0x31, 0x00, 0x05] [(0x100, 0x00), (0x101, 0x44)])) [0x100, 0x101] =
      some (0x0008, [0x00, 0x44]) := by decide
theorem test_be_dir_less :
    seen (step (start 0x0000 [0x32, 0x30, 0x05] [(0x030, 0x42), (0x100, 0x41), (0x101, 0x00)])) [0x030, 0x100, 0x101] =
      some (0x0003, [0x42, 0x41, 0x80]) := by decide
theorem test_be_dir_reads_old_psw :
    seen (step (start 0x0000 [0x33, 0x01, 0x05] [(0x100, 0x80), (0x101, 0x80)])) [0x100, 0x101] =
      some (0x0008, [0x80, 0x00]) := by decide
theorem test_be_ind_taken :
    seen (step (start 0x0000 [0x34, 0x09, 0x10] [(0x000, 0x40), (0x040, 0x09), (0x101, 0x00)])) [0x000, 0x040, 0x101] =
      some (0x0013, [0x40, 0x09, 0x00]) := by decide
theorem test_be_ind_greater :
    seen (step (start 0x0000 [0x34, 0x09, 0x10] [(0x000, 0x40), (0x040, 0x0A), (0x101, 0x80)])) [0x000, 0x040, 0x101] =
      some (0x0003, [0x40, 0x0A, 0x00]) := by decide
theorem test_bne_imm_less :
    seen (step (start 0x0100 [0x41, 0x04, 0xF0] [(0x100, 0x03), (0x101, 0x00)])) [0x100, 0x101] =
      some (0x00F3, [0x03, 0x80]) := by decide
theorem test_bne_imm_not_taken :
    seen (step (start 0x0100 [0x41, 0x04, 0xF0] [(0x100, 0x04), (0x101, 0x80)])) [0x100, 0x101] =
      some (0x0103, [0x04, 0x00]) := by decide
theorem test_bne_dir_less :
    seen (step (start 0x0000 [0x42, 0x30, 0x05] [(0x030, 0xFF), (0x100, 0x00), (0x101, 0x00)])) [0x030, 0x100, 0x101] =
      some (0x0008, [0xFF, 0x00, 0x80]) := by decide
theorem test_bne_dir_not_taken :
    seen (step (start 0x0000 [0x42, 0x30, 0x05] [(0x030, 0xFF), (0x100, 0xFF), (0x101, 0xC4)])) [0x030, 0x100, 0x101] =
      some (0x0003, [0xFF, 0xFF, 0x44]) := by decide
theorem test_bne_ind_not_taken :
    seen (step (start 0x0000 [0x44, 0x09, 0x10] [(0x000, 0x40), (0x040, 0x09), (0x101, 0x00)])) [0x000, 0x040, 0x101] =
      some (0x0003, [0x40, 0x09, 0x00]) := by decide
theorem test_bne_ind_in_bank_1 :
    seen (step (start 0x0000 [0x45, 0x80, 0x10] [(0x005, 0x41), (0x041, 0x90), (0x101, 0x88)])) [0x005, 0x041, 0x101] =
      some (0x0013, [0x41, 0x90, 0x08]) := by decide
theorem test_call_takes_the_page_of_next :
    seen (step (start 0x0FFE [0x08, 0x00] [(0x106, 0x10)])) [0x011, 0x012, 0x106] =
      some (0x1000, [0x00, 0x10, 0x12]) := by decide
theorem test_call_sp_wraps_between_pushes :
    seen (step (start 0x0100 [0x0A, 0x34] [(0x106, 0xFE)])) [0x000, 0x0FF, 0x106] =
      some (0x0234, [0x01, 0x02, 0x00]) := by decide
theorem test_callf_next_wraps :
    seen (step (start 0xFFFD [0x20, 0x00, 0x00] [(0x106, 0x20)])) [0x021, 0x022, 0x106] =
      some (0x0000, [0x00, 0x00, 0x22]) := by decide
theorem test_callr_forwards :
    seen (step (start 0x0200 [0x10, 0xFE, 0x00] [(0x106, 0x10)])) [0x011, 0x012, 0x106] =
      some (0x0300, [0x03, 0x02, 0x12]) := by decide
theorem test_callr_target_wraps :
    seen (step (start 0x0200 [0x10, 0xFE, 0xFD] [(0x106, 0x10)])) [0x011, 0x012, 0x106] =
      some (0x0000, [0x03, 0x02, 0x12]) := by decide
theorem test_ret_pops_high_byte_first :
    seen (step (start 0x0000 [0xA0] [(0x080, 0x02), (0x081, 0x01), (0x106, 0x81)])) [0x080, 0x081, 0x106] =
      some (0x0102, [0x02, 0x01, 0x7F]) := by decide
theorem test_ret_sp_wraps_between_pops :
    seen (step (start 0x0000 [0xA0] [(0x000, 0x12), (0x0FF, 0x34), (0x106, 0x00)])) [0x000, 0x0FF, 0x106] =
      some (0x1234, [0x12, 0x34, 0xFE]) := by decide
theorem test_reti_clears_int_hold :
    seen (step ((start 0x0000 [0xB0] [(0x021, 0x56), (0x022, 0x04), (0x106, 0x22)]).setIntHold true)) [0x021, 0x022, 0x106] =
      some (0x0456, [0x56, 0x04, 0x20]) := by decide
theorem test_nop_pc_wraps :
    seen (step (start 0xFFFF [0x00] [])) [] = some (0x0000, []) := by decide
theorem test_nop_changes_nothing :
    seen (step (start 0x1234 [0x00] [(0x100, 0xFF), (0x101, 0xFF)])) [0x100, 0x101] =
      some (0x1235, [0xFF, 0xFF]) := by decide

/-- reti clears int_hold (2.7). -/
theorem test_reti_int_hold :
    (match step ((start 0 [0xB0] [(0x106, 0x22), (0x021, 0x56), (0x022, 0x04)]).setIntHold true) with
      | .next t => t.intHold
      | _ => true) = false := by decide

/-- The state of 2.9 before step 1, with a request of its one source. -/
def interrupted : State :=
  { start 0x0123 [] [(0x106, 0x30), (0x101, 0xC4), (0x100, 0x55)] with
    intSources := [⟨0, 0x0003⟩], requests := [some ⟨0, 0x0003⟩] }

/-- Interrupt entry (2.9, step 1). -/
theorem test_interrupt_entry :
    seen (step interrupted) [0x031, 0x032, 0x106, 0x101, 0x100] = some (0x0003, [0x23, 0x01, 0x32, 0xC4, 0x55]) := by
  decide

/-- A request is not taken while int_hold is 1 (2.9, step 2): the nop at pc runs. -/
theorem test_interrupt_held : seen (step (interrupted.setIntHold true)) [0x106] = some (0x0124, [0x30]) := by decide

/-- div by zero goes on, with the free value in acc (log 7). -/
theorem test_div_by_zero_goes_on :
    ∃ t, step (start 0 [0x40] [(0x100, 0x12), (0x103, 0x34), (0x101, 0x80)]) = .next t ∧ t.pc = 1 ∧ t.cy = false := by
  refine ⟨_, rfl, rfl, ?_⟩
  exact (State.psw_setOv_getLsbD _ _ (by decide)).trans (State.cy_setCy _ _)

/-- push and pop of the sp cell are refused (2.4). -/
theorem test_push_and_pop_of_sp_refused :
    refusal (step (start 0 [0x61, 0x06] [(0x106, 0x20)])) = some .pushOfSpCell ∧
      refusal (step (start 0 [0x71, 0x06] [(0x020, 0x30), (0x106, 0x20)])) = some .popIntoSpCell := by decide

/-! Other parameters than the defaults (R7); worked out by hand -/

/-- acc at 0x180, sp at 0x1FF, cy and ov changed over, R0 at 0x07E with psw 0x08 and R1 at 0x07F with psw 0x00,
R3 with the base 0x1F0 and R2 without one, and with psw 0x02 reads of 0x031 in the physical cell 0x0231 and
writes to 0x030 in 0x0230. -/
def otherParams : Params :=
  { addrAcc := 0x180, addrSp := 0x1FF, bitCy := 2, bitOv := 7, ptrCells := [((0, 0x08), 0x07E), ((1, 0x00), 0x07F)],
    ptrBases := [(3, 0x1F0), (2, 0x000)],
    bankMap := [((0x031, 0x02, .read), 0x0231), ((0x030, 0x02, .write), 0x0230)], resetPc := 0x0200 }

/-- start with other parameters. -/
def startWith (p : Params) (pc : CodeAddr) (bytes : List Byte) (cells : List (DataAddr × Byte)) : State :=
  cells.foldl (fun s c => s.setCell c.1 c.2)
    { State.resetWith p with pc := pc, rom := placeBytes [] pc bytes }

theorem test_add_with_other_register_and_flags :
    seen (step (startWith otherParams 0 [0x81, 0x01] [(0x100, 0x11), (0x180, 0x7F), (0x101, 0x00)]))
        [0x100, 0x180, 0x101] = some (0x0002, [0x11, 0x80, 0xC0]) := by decide
theorem test_ld_with_other_PtrCell_and_PtrBase :
    seen (step (startWith otherParams 0 [0x05] [(0x07F, 0x41), (0x041, 0x99)])) [0x180] = some (0x0001, [0x99]) ∧
    seen (step (startWith otherParams 0 [0x05] [(0x005, 0x42), (0x042, 0x98), (0x101, 0x08)])) [0x180] =
      some (0x0001, [0x98]) ∧
    seen (step (startWith otherParams 0 [0x06] [(0x002, 0x41), (0x041, 0x97)])) [0x180] = some (0x0001, [0x97]) := by
  decide
/-- Base 0x1F0 and Ri 0x20: the sum passes 0x1FF and wraps to 0x010 (log 16). -/
theorem test_ea_wraps :
    seen (step (startWith otherParams 0 [0x07] [(0x003, 0x20), (0x010, 0x96)])) [0x180] = some (0x0001, [0x96]) := by
  decide
theorem test_mov_through_BankMap :
    (match step (startWith otherParams 0 [0x22, 0x30, 0x5A] [(0x030, 0x11), (0x101, 0x02)]) with
      | .next t => (t.phys 0x0230, t.cell 0x030)
      | _ => (0, 0)) = (0x5A, 0x11) ∧
    (match step (startWith otherParams 0 [0x22, 0x30, 0x5A] [(0x030, 0x11), (0x101, 0x00)]) with
      | .next t => (t.phys 0x0230, t.cell 0x030)
      | _ => (0, 0)) = (0x00, 0x5A) := by decide
theorem test_push_of_other_sp_refused :
    refusal (step (startWith otherParams 0 [0x61, 0xFF] [])) = some .pushOfSpCell ∧
      seen (step (startWith otherParams 0 [0x61, 0x06] [(0x106, 0x5A), (0x1FF, 0x20)])) [0x021, 0x1FF] =
        some (0x0002, [0x5A, 0x21]) := by decide
theorem test_reset_with_other_parameters : (State.resetWith otherParams).pc = 0x0200 := by decide

/-- Two registers in one cell, a register among the stack's cells, two flags in one bit, and a BankMap are no
layout of the spec's machine. -/
theorem test_laidOut_refuses :
    ({ addrB := 0x100 } : Params).laidOut = false ∧ ({ addrSp := 0x0FF } : Params).laidOut = false ∧
      ({ bitOv := 7 } : Params).laidOut = false ∧ otherParams.laidOut = false ∧
      ({ otherParams with bankMap := [] } : Params).laidOut = true := by decide

/-- The memory form after a write, and after the write of what an unlisted address reads as. -/
theorem test_write_keeps_form :
    Memory.write [(1, 5), (9, 7)] 4 6 = [(1, 5), (4, 6), (9, 7)] ∧ Memory.write [(1, 5), (9, 7)] 1 0 = [(9, 7)] ∧
      Memory.wf 512 [(1, 5), (4, 6), (9, 7)] = true ∧ Memory.wf 512 [(4, 6), (1, 5)] = false ∧
      Memory.wf 512 [(512, 6)] = false ∧ Memory.wf 512 [(1, 0)] = false := by decide

/-! Witnesses: states and operands that meet the hypotheses of each statement that has any -/

/-- A state with cy 1, pointer bank 1 (R0 designates 0x000, R1 0x041, R2 acc, R3 0x1FF), one device cell, b not
zero, sp about to wrap between two pushes, and `be #$20, r8` over the end of ROM space. -/
def w : State :=
  { start 0xFFFE [0x31, 0x20, 0x05] [(0x005, 0x41), (0x007, 0xFF), (0x041, 0x04), (0x1FF, 0x77), (0x100, 0x05),
      (0x101, 0x88), (0x102, 0x56), (0x106, 0xFE)] with deviceCells := [0x120] }

/-- The parameters are laid out in w; it is a premise of most statements. -/
theorem w_laidOut : w.laidOut = true := by decide

theorem test_witness_MemReadAndMemWrite :
    (0x120#9 ∈ w.deviceCells ∧ 0x000#9 ∉ w.deviceCells ∧ 0x1FF#9 ∉ w.deviceCells ∧ w.params.bankMap = []) ∧
      (let s := startWith otherParams 0 [] [(0x101, 0x02)]
      s.params.bankMap.lookup (0x030, s.psw, .write) = some 0x0230 ∧
        s.params.bankMap.lookup (0x030, s.psw, .read) = none) := by decide

/-- Of the clauses on an entry of a table, the second one, and of those on an argument that has none. -/
theorem test_witness_PointerAddressing :
    (let s := State.resetWith otherParams
    s.params.ptrCells.lookup (1, s.psw) = some 0x07F ∧ s.params.ptrBases.lookup 2 = some 0x000 ∧
      s.params.ptrCells.lookup (0, s.psw) = none ∧ s.params.ptrBases.lookup 0 = none ∧
      s.params.bitIrbk1 = 4 ∧ s.params.bitIrbk0 = 3) ∧ w.params.bankMap = [] := by decide

theorem test_witness_PushAndPop :
    w.laidOut = true ∧ w.isDevice (stackCell (w.sp + 1)) = false ∧ w.isDevice (stackCell w.sp) = false := by decide

/-- The three forms of a source operand, for any mnemonic. -/
theorem srcForm_w (imm : Byte → Instr) (dir : DataAddr → Instr) (ind : BitVec 2 → Instr) :
    SrcForm imm dir ind w (imm 0x45) 0x45 ∧ SrcForm imm dir ind w (dir 0x101) 0x88 ∧
      SrcForm imm dir ind w (ind 3) 0x77 :=
  ⟨.inl rfl, .inr (.inl ⟨_, rfl, by decide, by decide⟩), .inr (.inr ⟨_, rfl, by decide, by decide⟩)⟩

/-- The two forms of a memory operand, for any mnemonic; `ind 3` designates the last cell. -/
theorem locForm_w (dir : DataAddr → Instr) (ind : BitVec 2 → Instr) :
    LocForm dir ind w (dir 0x000) 0x000 ∧ LocForm dir ind w (ind 3) 0x1FF :=
  ⟨⟨by decide, .inl rfl⟩, ⟨by decide, .inr ⟨3, rfl, by decide⟩⟩⟩

theorem test_witness_AddAndAddc : w.laidOut = true ∧
    (SrcForm .addImm .addDir .addInd w (.addImm 0x45) 0x45 ∧ SrcForm .addImm .addDir .addInd w (.addDir 0x101) 0x88 ∧
      SrcForm .addImm .addDir .addInd w (.addInd 3) 0x77) ∧
    (SrcForm .addcImm .addcDir .addcInd w (.addcImm 0x45) 0x45 ∧
      SrcForm .addcImm .addcDir .addcInd w (.addcDir 0x101) 0x88 ∧
      SrcForm .addcImm .addcDir .addcInd w (.addcInd 3) 0x77) ∧ true = w.cy :=
  ⟨w_laidOut, srcForm_w .., srcForm_w .., by decide⟩

theorem test_witness_SubAndSubc : w.laidOut = true ∧
    (SrcForm .subImm .subDir .subInd w (.subImm 0x45) 0x45 ∧ SrcForm .subImm .subDir .subInd w (.subDir 0x101) 0x88 ∧
      SrcForm .subImm .subDir .subInd w (.subInd 3) 0x77) ∧
    (SrcForm .subcImm .subcDir .subcInd w (.subcImm 0x45) 0x45 ∧
      SrcForm .subcImm .subcDir .subcInd w (.subcDir 0x101) 0x88 ∧
      SrcForm .subcImm .subcDir .subcInd w (.subcInd 3) 0x77) ∧ true = w.cy :=
  ⟨w_laidOut, srcForm_w .., srcForm_w .., by decide⟩

theorem test_witness_IncAndDec : w.laidOut = true ∧
    (LocForm .incDir .incInd w (.incDir 0x000) 0x000 ∧ LocForm .incDir .incInd w (.incInd 3) 0x1FF) ∧
    (LocForm .decDir .decInd w (.decDir 0x000) 0x000 ∧ LocForm .decDir .decInd w (.decInd 3) 0x1FF) :=
  ⟨w_laidOut, locForm_w .., locForm_w ..⟩

theorem test_witness_MulGives24BitProduct : w.laidOut = true := w_laidOut

theorem test_witness_DivGivesQuotientAndRemainder : w.laidOut = true ∧ w.b ≠ 0 := by decide

theorem test_witness_DivByZeroRunsWithFreeResult : (w.setB 0).laidOut = true ∧ (w.setB 0).b = 0 := by decide

theorem test_witness_AndOrXor : w.laidOut = true ∧
    (SrcForm .andImm .andDir .andInd w (.andImm 0x45) 0x45 ∧ SrcForm .andImm .andDir .andInd w (.andDir 0x101) 0x88 ∧
      SrcForm .andImm .andDir .andInd w (.andInd 3) 0x77) ∧
    (SrcForm .orImm .orDir .orInd w (.orImm 0x45) 0x45 ∧ SrcForm .orImm .orDir .orInd w (.orDir 0x101) 0x88 ∧
      SrcForm .orImm .orDir .orInd w (.orInd 3) 0x77) ∧
    (SrcForm .xorImm .xorDir .xorInd w (.xorImm 0x45) 0x45 ∧ SrcForm .xorImm .xorDir .xorInd w (.xorDir 0x101) 0x88 ∧
      SrcForm .xorImm .xorDir .xorInd w (.xorInd 3) 0x77) :=
  ⟨w_laidOut, srcForm_w .., srcForm_w .., srcForm_w ..⟩

/-- For RolcAndRorc and RotatesUndoEachOther. -/
theorem test_witness_rotates : w.laidOut = true := w_laidOut

theorem test_witness_BitInstructions : w.laidOut = true ∧ w.isDevice 0x1FF = false ∧ w.isDevice 0x000 = false := by decide

theorem test_witness_LdStXch : w.laidOut = true ∧
    (LocForm .ldDir .ldInd w (.ldDir 0x000) 0x000 ∧ LocForm .ldDir .ldInd w (.ldInd 3) 0x1FF) ∧
    (LocForm .stDir .stInd w (.stDir 0x000) 0x000 ∧ LocForm .stDir .stInd w (.stInd 3) 0x1FF) ∧
    (LocForm .xchDir .xchInd w (.xchDir 0x000) 0x000 ∧ LocForm .xchDir .xchInd w (.xchInd 3) 0x1FF) :=
  ⟨w_laidOut, locForm_w .., locForm_w .., locForm_w ..⟩

theorem test_witness_MovStoresConstant : w.laidOut = true ∧
    LocForm (.movDir 0x5A) (.movInd 0x5A) w (.movDir 0x5A 0x000) 0x000 ∧
      LocForm (.movDir 0x5A) (.movInd 0x5A) w (.movInd 0x5A 3) 0x1FF := ⟨w_laidOut, locForm_w ..⟩

theorem test_witness_PushCopiesToStack :
    w.laidOut = true ∧ 0x1FF#9 ≠ w.params.addrSp ∧ w.isDevice 0x1FF = false ∧ w.isDevice (stackCell (w.sp + 1)) = false := by decide

theorem test_witness_PopCopiesFromStack :
    w.laidOut = true ∧ 0x1FF#9 ≠ w.params.addrSp ∧ w.isDevice 0x1FF = false ∧ w.isDevice (stackCell w.sp) = false := by decide

theorem test_witness_BpAndBn : w.laidOut = true ∧ w.isDevice 0x1FF = false := by decide

theorem test_witness_BpcClearsAndBranches :
    w.laidOut = true ∧ w.isDevice 0x101 = false ∧ (w.cell 0x101).getLsbD (7#3).toNat = true ∧
      (w.cell 0x101).getLsbD (0#3).toNat = false := by decide

theorem test_witness_DbnzDecrementsAndBranches : w.laidOut = true ∧
    LocForm (fun d9 => .dbnzDir d9 0xFE) (fun r => .dbnzInd r 0xFE) w (.dbnzDir 0x000 0xFE) 0x000 ∧
      LocForm (fun d9 => .dbnzDir d9 0xFE) (fun r => .dbnzInd r 0xFE) w (.dbnzInd 3 0xFE) 0x1FF :=
  ⟨w_laidOut, locForm_w ..⟩

theorem test_witness_BeAndBne : w.laidOut = true ∧
    CompareForm true 0xFE w (.beImm 0x20 0xFE) 0x05 0x20 ∧ CompareForm true 0xFE w (.beDir 0x1FF 0xFE) 0x05 0x77 ∧
    CompareForm true 0xFE w (.beInd 1 0x04 0xFE) 0x04 0x04 ∧ CompareForm false 0xFE w (.bneImm 0x20 0xFE) 0x05 0x20 ∧
    CompareForm false 0xFE w (.bneDir 0x1FF 0xFE) 0x05 0x77 ∧ CompareForm false 0xFE w (.bneInd 1 0x04 0xFE) 0x04 0x04 :=
  ⟨w_laidOut, .inl ⟨rfl, by decide⟩, .inr (.inl ⟨_, rfl, by decide, by decide, by decide⟩),
    .inr (.inr ⟨_, rfl, by decide, by decide⟩), .inl ⟨rfl, by decide⟩,
    .inr (.inl ⟨_, rfl, by decide, by decide, by decide⟩), .inr (.inr ⟨_, rfl, by decide, by decide⟩)⟩

/-- For CallPushesAndJumps and CallfAndCallr: the two pushes go to 0x0FF and 0x000. -/
theorem test_witness_calls : w.laidOut = true ∧ CanPushTwo w := ⟨w_laidOut, by decide, by decide⟩

/-- For RetPopsPc and RetiPopsPcAndResumes, also with sp wrapping between the two pops. -/
theorem test_witness_returns :
    (w.laidOut = true ∧ CanPopTwo w) ∧ (w.setSp 0).laidOut = true ∧ CanPopTwo (w.setSp 0) :=
  ⟨⟨w_laidOut, by decide, by decide⟩, by decide, by decide, by decide⟩

theorem test_witness_CallThenRetReturns :
    ((∃ a, Instr.call 0xFFF = .call a) ∧ (∃ a, Instr.callf 0xFFFF = .callf a) ∧
      ∃ r, Instr.callr 0xFFFE = .callr r) ∧ w.laidOut = true ∧ CanPushTwo w :=
  ⟨⟨⟨_, rfl⟩, ⟨_, rfl⟩, ⟨_, rfl⟩⟩, test_witness_calls⟩

/-- The bytes of `be #$20, r8` at 0xFFFE, 0xFFFF and 0x0000. -/
theorem test_witness_StepRunsInstructionAtPc :
    (∀ k, k < (Instr.beImm 0x20 0x05).length →
      w.romRead (w.pc + BitVec.ofNat 16 k) = (encode (.beImm 0x20 0x05)).getD k 0) ∧ w.accepted = none := by decide

theorem test_witness_StepEntersInterrupt :
    interrupted.intHold = false ∧ interrupted.requests = some ⟨0, 0x0003⟩ :: [] ∧
      (⟨0, 0x0003⟩ : IntSource) ∈ interrupted.intSources ∧ interrupted.laidOut = true ∧ CanPushTwo interrupted :=
  ⟨rfl, rfl, by decide, by decide, by decide, by decide⟩

theorem test_witness_HeldInterruptsWait : (interrupted.setIntHold true).intHold = true := rfl

theorem test_witness_EntryThenRetiRestores : w.intHold = false ∧ w.laidOut = true ∧ CanPushTwo w := ⟨rfl, test_witness_calls⟩

/-- Each of the outcomes of the statement that is no refusal of push or pop. -/
theorem test_witness_CompletesUnlessRefused : w.laidOut = true ∧
    (accessedCells (.stDir 0x120) w).find? w.isDevice = some 0x120 ∧
    (accessedCells .ldf w).find? w.isDevice = none ∧ (accessedCells .stf w).find? w.isDevice = none ∧
    (accessedCells (.pop 0x1FF) w).find? w.isDevice = none ∧ Instr.pop 0x1FF ≠ .pop w.params.addrSp := by decide

/-- With an interrupt taken at an ldf, and with none taken at a nop. -/
theorem test_witness_RunsOnWithoutDevices :
    (let s := withRom interrupted 0x0123 0x50
    s.deviceCells = [] ∧ s.accepted ≠ none ∧ s.fetch = .ldf ∧
      (s.accepted = none → s.fetch ∉ [.ldf, .stf, .push s.params.addrSp, .pop s.params.addrSp])) ∧
    (let s := interrupted.setIntHold true
    s.deviceCells = [] ∧ s.accepted = none ∧
      (s.accepted = none → s.fetch ∉ [.ldf, .stf, .push s.params.addrSp, .pop s.params.addrSp])) := by decide

theorem test_witness_OnlyWrittenCellsChange :
    w.laidOut = true ∧ (∃ t, exec (.xchInd 3) w = .next t) ∧ 0x1FE#9 ∉ writtenCells (.xchInd 3) w :=
  ⟨w_laidOut, ⟨_, rfl⟩, by decide⟩

/-- `be` writes cy only; `mul` does not write ac; `inc` of another cell than psw writes none. -/
theorem test_witness_OnlyFlagWritersChangeFlags : w.laidOut = true ∧
    ((∃ t, exec (.beImm 5 0) w = .next t) ∧ w.params.addrPsw ∉ storedCells (.beImm 5 0) w ∧
      writesAc (.beImm 5 0) = false ∧ writesOv (.beImm 5 0) = false) ∧
    ((∃ t, exec .mul w = .next t) ∧ w.params.addrPsw ∉ storedCells .mul w ∧ writesAc .mul = false) ∧
    ((∃ t, exec (.incInd 3) w = .next t) ∧ w.params.addrPsw ∉ storedCells (.incInd 3) w ∧
      writesCy (.incInd 3) = false) :=
  ⟨w_laidOut, ⟨⟨_, rfl⟩, by decide⟩, ⟨⟨_, rfl⟩, by decide⟩, ⟨⟨_, rfl⟩, by decide⟩⟩

theorem test_witness_IntHoldWriters :
    (∃ t, exec .reti (w.setIntHold true) = .next t) ∧ (∃ t, exec .ret (w.setIntHold true) = .next t) ∧
    ∃ t, step interrupted = .next t ∧ interrupted.intHold = false ∧ t.intHold = true :=
  ⟨⟨_, rfl⟩, ⟨_, rfl⟩, _, rfl, rfl, rfl⟩

/-- Of an instruction's step and of an interrupt entry. -/
theorem test_witness_StepKeepsRomAndParameters : (∃ t, step w = .next t) ∧ ∃ t, step interrupted = .next t :=
  ⟨⟨_, rfl⟩, _, rfl⟩

theorem test_witness_StepKeepsLayout :
    (w.laidOut = true ∧ ∃ t, step w = .next t) ∧ interrupted.laidOut = true ∧ ∃ t, step interrupted = .next t :=
  ⟨⟨w_laidOut, _, rfl⟩, by decide, _, rfl⟩

theorem test_witness_StepKeepsMemoryForm :
    (w.wf = true ∧ ∃ t, step w = .next t) ∧ interrupted.wf = true ∧ ∃ t, step interrupted = .next t :=
  ⟨⟨by decide, _, rfl⟩, by decide, _, rfl⟩

theorem test_witness_SelfBranchIsFixedPoint :
    (start 0xFFFF [0x01, 0xFE] []).romRead 0xFFFF = 0x01 ∧ (start 0xFFFF [0x01, 0xFE] []).romRead (0xFFFF + 1) = 0xFE ∧
      (start 0xFFFF [0x01, 0xFE] []).requests = [] := by decide

/-- All premises of AssembledTargetIsReached for a line, whose instruction is i, with the target last. -/
def Assembles (s : State) (m : Mnemonic) (args : List Arg) (target : Nat) (i : Instr) : Prop :=
  assemble s.pc m (args ++ [.direct target]) = some i ∧ GoesToTarget s i ∧ s.laidOut = true ∧
    ∀ a ∈ accessedCells i s, s.isDevice a = false

/-- Each mnemonic and form, with targets at both ends of each field's range, from 0x0100 with acc 0x05 and from
0x0200 with acc 0x00; R0 designates 0x000. -/
theorem test_witness_AssembledTargetIsReached :
    let s := { w with pc := 0x0100 }
    let z := start 0x0200 [] [(0x101, 0x00)]
    Assembles s .jmp [] 0x0FFF (.jmp 0xFFF) ∧ Assembles s .jmpf [] 0xFFFF (.jmpf 0xFFFF) ∧
    Assembles s .br [] 0x0181 (.br 0x7F) ∧ Assembles s .brf [] 0x0000 (.brf 0xFEFE) ∧
    Assembles s .call [] 0x0000 (.call 0x000) ∧ Assembles s .callf [] 0xFFFF (.callf 0xFFFF) ∧
    Assembles s .callr [] 0xFFFF (.callr 0xFEFD) ∧
    Assembles z .bz [] 0x0182 (.bz 0x80) ∧ Assembles s .bnz [] 0x0181 (.bnz 0x7F) ∧
    Assembles s .bp [.direct 0x101, .direct 7] 0x0083 (.bp 0x101 7 0x80) ∧
    Assembles s .bpc [.direct 0x1FF, .direct 0] 0x0182 (.bpc 0x1FF 0 0x7F) ∧
    Assembles s .bn [.direct 0x101, .direct 0] 0x0103 (.bn 0x101 0 0x00) ∧
    Assembles s .dbnz [.direct 0x000] 0x0100 (.dbnzDir 0x000 0xFD) ∧
    Assembles s .dbnz [.indirect 3] 0x0181 (.dbnzInd 3 0x7F) ∧
    Assembles s .be [.immediate 5] 0x0182 (.beImm 5 0x7F) ∧
    Assembles s .be [.direct 0x100] 0x0182 (.beDir 0x100 0x7F) ∧
    Assembles s .be [.indirect 1, .immediate 4] 0x0083 (.beInd 1 4 0x80) ∧
    Assembles s .bne [.immediate 4] 0x0182 (.bneImm 4 0x7F) ∧
    Assembles s .bne [.direct 0x1FF] 0x0182 (.bneDir 0x1FF 0x7F) ∧
    Assembles s .bne [.indirect 3, .immediate 4] 0x0083 (.bneInd 3 4 0x80) := by
  refine ⟨?_, ?_, ?_, ?_, ?_, ?_, ?_, ?_, ?_, ?_, ?_, ?_, ?_, ?_, ?_, ?_, ?_, ?_, ?_, ?_⟩ <;>
    exact ⟨by decide, by simp only [GoesToTarget] <;> decide, by decide, by decide⟩

end Sys2Proof.Tests
end

section
/-! What an instruction leaves of a run, for every instruction at once: ROM space, the parameters and the
schedule of requests (R35, R57). -/

namespace Sys2Proof.Machine

/-- The part of the state that no instruction writes: ROM space, the parameters of the run and what is left of
the interrupt agent's schedule. -/
structure RunData where
  rom : List Host.Cell
  deviceCells : List DataAddr
  intSources : List IntSource
  requests : List (Option IntSource)
  params : Params

/-- That part of a state. -/
def State.runData (s : State) : RunData := ⟨s.rom, s.deviceCells, s.intSources, s.requests, s.params⟩

theorem State.runData_eq_iff {s t : State} :
    t.runData = s.runData ↔
      t.rom = s.rom ∧ t.deviceCells = s.deviceCells ∧ t.intSources = s.intSources ∧ t.requests = s.requests ∧
        t.params = s.params := by
  simp only [State.runData, RunData.mk.injEq]

theorem State.params_of_runData {s t : State} (h : t.runData = s.runData) : t.params = s.params :=
  congrArg RunData.params h

/-! The updates of the state -/

@[simp] theorem State.runData_setCell (s : State) (a : DataAddr) (v : Byte) :
    (s.setCell a v).runData = s.runData := rfl
@[simp] theorem State.runData_store (s : State) (k : Access) (a : DataAddr) (v : Byte) :
    (s.store k a v).runData = s.runData := rfl
@[simp] theorem State.runData_setPc (s : State) (a : CodeAddr) : (s.setPc a).runData = s.runData := rfl
@[simp] theorem State.runData_setIntHold (s : State) (v : Bool) : (s.setIntHold v).runData = s.runData := rfl
@[simp] theorem State.runData_advance (s : State) (n : Nat) : (s.advance n).runData = s.runData := rfl
@[simp] theorem State.runData_branch (s : State) (taken : Bool) (len : Nat) (r8 : Byte) :
    (s.branch taken len r8).runData = s.runData := rfl
@[simp] theorem State.runData_setAcc (s : State) (v : Byte) : (s.setAcc v).runData = s.runData := rfl
@[simp] theorem State.runData_setB (s : State) (v : Byte) : (s.setB v).runData = s.runData := rfl
@[simp] theorem State.runData_setC (s : State) (v : Byte) : (s.setC v).runData = s.runData := rfl
@[simp] theorem State.runData_setSp (s : State) (v : Byte) : (s.setSp v).runData = s.runData := rfl
@[simp] theorem State.runData_setCy (s : State) (v : Bool) : (s.setCy v).runData = s.runData := rfl
@[simp] theorem State.runData_setOv (s : State) (v : Bool) : (s.setOv v).runData = s.runData := rfl
@[simp] theorem State.runData_setFlags (s : State) (f : Flags) : (s.setFlags f).runData = s.runData := rfl

/-! The shared operations: what each answers is a chain of these updates -/

theorem runData_of_addOp {k : Bool} {src : Host.Outcome Byte Fault Refusal} {len : Nat} {s t : State}
    (h : addOp k src len s = .next t) : t.runData = s.runData := by
  obtain ⟨v, -, rfl⟩ := addOp_eq_next.mp h
  simp

theorem runData_of_subOp {k : Bool} {src : Host.Outcome Byte Fault Refusal} {len : Nat} {s t : State}
    (h : subOp k src len s = .next t) : t.runData = s.runData := by
  obtain ⟨v, -, rfl⟩ := subOp_eq_next.mp h
  simp

theorem runData_of_modifyOp {f : Byte → Byte} {loc : DataAddr} {len : Nat} {s t : State}
    (h : modifyOp f loc len s = .next t) : t.runData = s.runData := by
  obtain ⟨-, rfl⟩ := modifyOp_eq_next.mp h
  simp

theorem runData_of_logicOp {f : Byte → Byte → Byte} {src : Host.Outcome Byte Fault Refusal} {len : Nat}
    {s t : State} (h : logicOp f src len s = .next t) : t.runData = s.runData := by
  obtain ⟨v, -, rfl⟩ := logicOp_eq_next.mp h
  simp

theorem runData_of_bitOp {f : Byte → Byte → Byte} {d9 : DataAddr} {b3 : BitVec 3} {s t : State}
    (h : bitOp f d9 b3 s = .next t) : t.runData = s.runData := by
  obtain ⟨-, rfl⟩ := bitOp_eq_next.mp h
  simp

theorem runData_of_loadOp {loc : DataAddr} {len : Nat} {s t : State} (h : loadOp loc len s = .next t) :
    t.runData = s.runData := by
  obtain ⟨-, rfl⟩ := loadOp_eq_next.mp h
  simp

theorem runData_of_storeOp {loc : DataAddr} {v : Byte} {len : Nat} {s t : State}
    (h : storeOp loc v len s = .next t) : t.runData = s.runData := by
  obtain ⟨-, rfl⟩ := storeOp_eq_next.mp h
  simp

theorem runData_of_exchangeOp {loc : DataAddr} {len : Nat} {s t : State} (h : exchangeOp loc len s = .next t) :
    t.runData = s.runData := by
  obtain ⟨-, rfl⟩ := exchangeOp_eq_next.mp h
  simp

theorem runData_of_bitBranchOp {want : Bool} {d9 : DataAddr} {b3 : BitVec 3} {r8 : Byte} {s t : State}
    (h : bitBranchOp want d9 b3 r8 s = .next t) : t.runData = s.runData := by
  obtain ⟨-, rfl⟩ := bitBranchOp_eq_next.mp h
  simp

theorem runData_of_execBpc {d9 : DataAddr} {b3 : BitVec 3} {r8 : Byte} {s t : State}
    (h : execBpc d9 b3 r8 s = .next t) : t.runData = s.runData := by
  obtain ⟨-, rfl⟩ := execBpc_eq_next.mp h
  split <;> simp

theorem runData_of_decBranchOp {loc : DataAddr} {len : Nat} {r8 : Byte} {s t : State}
    (h : decBranchOp loc len r8 s = .next t) : t.runData = s.runData := by
  obtain ⟨-, rfl⟩ := decBranchOp_eq_next.mp h
  simp

theorem runData_of_compareBranchOp {want : Bool} {left right : Host.Outcome Byte Fault Refusal} {r8 : Byte}
    {s t : State} (h : compareBranchOp want left right r8 s = .next t) : t.runData = s.runData := by
  obtain ⟨a, v, -, -, rfl⟩ := compareBranchOp_eq_next.mp h
  simp

/-! The stack, whatever BankMap is -/

theorem runData_of_push {v : Byte} {s t : State} (h : push v s = .next t) : t.runData = s.runData := by
  obtain ⟨-, rfl⟩ := push_eq_next.mp h
  simp

theorem runData_of_pop {s : State} {r : Byte × State} (h : pop s = .next r) : r.2.runData = s.runData := by
  obtain ⟨-, rfl⟩ := pop_eq_next.mp h
  simp

theorem runData_of_pushAddr {a : CodeAddr} {s t : State} (h : pushAddr a s = .next t) :
    t.runData = s.runData := by
  obtain ⟨s1, hlo, hhi⟩ := andThen_eq_next.mp h
  exact (runData_of_push hhi).trans (runData_of_push hlo)

theorem runData_of_popAddr {s : State} {r : CodeAddr × State} (h : popAddr s = .next r) :
    r.2.runData = s.runData := by
  obtain ⟨hi, hhi, h⟩ := andThen_eq_next.mp h
  obtain ⟨lo, hlo, h⟩ := andThen_eq_next.mp h
  obtain rfl := Host.Outcome.next.inj h
  exact (runData_of_pop hlo).trans (runData_of_pop hhi)

theorem runData_of_execPush {d9 : DataAddr} {s t : State} (h : execPush d9 s = .next t) :
    t.runData = s.runData := by
  obtain ⟨-, -, -, rfl⟩ := execPush_eq_next.mp h
  simp

theorem runData_of_execPop {d9 : DataAddr} {s t : State} (h : execPop d9 s = .next t) :
    t.runData = s.runData := by
  obtain ⟨-, -, -, rfl⟩ := execPop_eq_next.mp h
  simp

theorem runData_of_callOp {target : CodeAddr} {len : Nat} {s t : State} (h : callOp target len s = .next t) :
    t.runData = s.runData := by
  obtain ⟨s1, hpush, rfl⟩ := callOp_eq_next.mp h
  simpa using runData_of_pushAddr hpush

theorem runData_of_execRet {s t : State} (h : execRet s = .next t) : t.runData = s.runData := by
  obtain ⟨r, hpop, rfl⟩ := execRet_eq_next.mp h
  simpa using runData_of_popAddr hpop

theorem runData_of_returnFromInterrupt {s t : State} (h : returnFromInterrupt s = .next t) :
    t.runData = s.runData := by
  obtain ⟨r, hpop, rfl⟩ := returnFromInterrupt_eq_next.mp h
  simpa using runData_of_popAddr hpop

theorem runData_of_enterInterrupt {vector : CodeAddr} {s t : State} (h : enterInterrupt vector s = .next t) :
    t.runData = s.runData := by
  obtain ⟨s1, hpush, rfl⟩ := enterInterrupt_eq_next.mp h
  simpa using runData_of_pushAddr hpush

/-! Division -/

/-- div by zero goes on with the free value DivByZero (R127; log 7). -/
theorem exec_div_of_b_eq_zero {s : State} (h : s.b = 0) : exec .div s = .next ((divideByZero s).advance 1) :=
  congrArg (fun u : State => Host.Outcome.next (u.advance 1)) (if_pos h)

/-- div by any other value divides (R127). -/
theorem exec_div_of_b_ne_zero {s : State} (h : s.b ≠ 0) : exec .div s = .next ((divide s).advance 1) :=
  congrArg (fun u : State => Host.Outcome.next (u.advance 1)) (if_neg h)

theorem runData_of_exec_div {s t : State} (h : exec .div s = .next t) : t.runData = s.runData := by
  by_cases hb : s.b = 0
  · obtain rfl := Host.Outcome.next.inj ((exec_div_of_b_eq_zero hb).symm.trans h)
    simp [divideByZero]
  · obtain rfl := Host.Outcome.next.inj ((exec_div_of_b_ne_zero hb).symm.trans h)
    simp [divide]

/-! Every instruction and every step -/

/-- No instruction changes ROM space, a parameter of the run or the schedule of requests. -/
theorem runData_of_exec {i : Instr} {s t : State} (h : exec i s = .next t) : t.runData = s.runData := by
  unfold exec at h
  cases i with
  | addImm _ | addDir _ | addInd _ | addcImm _ | addcDir _ | addcInd _ => exact runData_of_addOp h
  | subImm _ | subDir _ | subInd _ | subcImm _ | subcDir _ | subcInd _ => exact runData_of_subOp h
  | incDir _ | incInd _ | decDir _ | decInd _ => exact runData_of_modifyOp h
  | div => exact runData_of_exec_div h
  | andImm _ | andDir _ | andInd _ | orImm _ | orDir _ | orInd _ | xorImm _ | xorDir _ | xorInd _ =>
    exact runData_of_logicOp h
  | clr1 _ _ | set1 _ _ | not1 _ _ => exact runData_of_bitOp h
  | ldDir _ | ldInd _ => exact runData_of_loadOp h
  | stDir _ | stInd _ | movDir _ _ | movInd _ _ => exact runData_of_storeOp h
  | push _ => exact runData_of_execPush h
  | pop _ => exact runData_of_execPop h
  | xchDir _ | xchInd _ => exact runData_of_exchangeOp h
  | bp _ _ _ | bn _ _ _ => exact runData_of_bitBranchOp h
  | bpc _ _ _ => exact runData_of_execBpc h
  | dbnzDir _ _ | dbnzInd _ _ => exact runData_of_decBranchOp h
  | beImm _ _ | beDir _ _ | beInd _ _ _ | bneImm _ _ | bneDir _ _ | bneInd _ _ _ =>
    exact runData_of_compareBranchOp h
  | call _ | callf _ | callr _ => exact runData_of_callOp h
  | ret => exact runData_of_execRet h
  | reti => exact runData_of_returnFromInterrupt h
  | ldf | stf => exact absurd h (by simp [execLdf, execStf])
  | mul | rol | rolc | ror | rorc | ldc | jmp _ | jmpf _ | br _ | brf _ | bz _ | bnz _ | nop =>
    obtain rfl := Host.Outcome.next.inj h
    rfl

@[simp] theorem State.afterBoundary_params (s : State) : s.afterBoundary.params = s.params := by
  unfold State.afterBoundary
  split <;> rfl

/-- A step is an interrupt entry or one instruction, at the boundary where the agent has acted (R285). -/
theorem step_eq_next {s t : State} :
    step s = .next t ↔
      (∃ src, s.accepted = some src ∧ enterInterrupt src.vector s.afterBoundary = .next t) ∨
        (s.accepted = none ∧ exec s.fetch s.afterBoundary = .next t) := by
  unfold step
  cases s.accepted <;> simp

/-- Of the run a step changes only the schedule, which the agent moves on before anything runs (R285). -/
theorem runData_of_step {s t : State} (h : step s = .next t) : t.runData = s.afterBoundary.runData := by
  obtain ⟨src, -, henter⟩ | ⟨-, hexec⟩ := step_eq_next.mp h
  · exact runData_of_enterInterrupt henter
  · exact runData_of_exec hexec

/-- The layout is a property of the parameters alone. -/
theorem State.laidOut_of_params_eq {s t : State} (h : t.params = s.params) : t.laidOut = s.laidOut :=
  congrArg Params.laidOut h

end Sys2Proof.Machine
end

section
/-! Frames, built up one update at a time: a chain of cell writes keeps everything but the cells it names, a
chain of flag writes every bit of psw but those it names. -/

namespace Sys2Proof.Claims

open Sys2Proof.Machine

theorem RunKept.of_runData {s t : State} (h : t.runData = s.runData) : RunKept s t := by
  obtain ⟨hrom, hdev, hsrc, hreq, hpar⟩ := State.runData_eq_iff.mp h
  exact ⟨fun a => by simp only [State.romRead, hrom], hpar, hdev, hsrc, hreq⟩

theorem Keeps.refl (cells : List DataAddr) (s : State) : Keeps cells s s :=
  ⟨⟨⟨fun _ _ => rfl, fun _ _ => rfl⟩, .of_runData rfl⟩, rfl⟩

theorem Keeps.setCell {cells : List DataAddr} {s t : State} (h : Keeps cells s t) {a : DataAddr} (v : Byte)
    (ha : a ∈ cells) : Keeps cells s (t.setCell a v) := by
  obtain ⟨⟨⟨hcell, hphys⟩, hrun⟩, hhold⟩ := h
  refine ⟨⟨⟨fun b hb => ?_, fun p hp => ?_⟩, hrun⟩, hhold⟩
  · rw [State.cell_setCell_ne t (ne_of_mem_of_not_mem ha hb).symm, hcell b hb]
  · rw [State.phys_setCell_of_ge t a v hp, hphys p hp]

/-- pc is outside every frame. -/
theorem Keeps.advance {cells : List DataAddr} {s t : State} (h : Keeps cells s t) (n : Nat) :
    Keeps cells s (t.advance n) := h

theorem PswKeeps.of_psw_eq {bits : List Nat} {s t : State} (h : t.psw = s.psw) : PswKeeps bits s t :=
  fun _ _ => by rw [h]

theorem PswKeeps.setCy {bits : List Nat} {s t : State} (h : PswKeeps bits s t) (v : Bool)
    (hb : t.params.bitCy.toNat ∈ bits) : PswKeeps bits s (t.setCy v) := fun n hn => by
  rw [State.psw_setCy_getLsbD t v (ne_of_mem_of_not_mem hb hn).symm, h n hn]

theorem PswKeeps.setOv {bits : List Nat} {s t : State} (h : PswKeeps bits s t) (v : Bool)
    (hb : t.params.bitOv.toNat ∈ bits) : PswKeeps bits s (t.setOv v) := fun n hn => by
  rw [State.psw_setOv_getLsbD t v (ne_of_mem_of_not_mem hb hn).symm, h n hn]

/-- ac stays where its bit is not among those written. -/
theorem PswKeeps.ac_eq {bits : List Nat} {s t : State} (h : PswKeeps bits s t) (hp : t.params = s.params)
    (hb : s.params.bitAc.toNat ∉ bits) : t.ac = s.ac := by
  simp only [State.ac, hp, h _ hb]

/-- The implicit end of an instruction is the address after it (R31). -/
theorem PcAdvances.advance {i : Instr} {s t : State} {n : Nat} (hpc : t.pc = s.pc) (hlen : i.length = n) :
    PcAdvances i s (t.advance n) := by
  simp [PcAdvances, State.next, hpc, hlen]

end Sys2Proof.Claims

namespace Sys2Proof.Machine

/-- A write of ov is not seen in cy. -/
theorem State.cy_setOv {s : State} (h : s.laidOut = true) (v : Bool) : (s.setOv v).cy = s.cy := by
  obtain ⟨-, hcyOv, -⟩ := State.flagBits_ne_of_laidOut h
  exact State.psw_setOv_getLsbD s v hcyOv

end Sys2Proof.Machine
end

section
/-! div by a divisor that is zero (R127; log 7). -/

namespace Sys2Proof.Machine

open Sys2Proof.Claims

/-- The three registers are three cells, none of them psw's. -/
theorem divideByZero_registers {s : State} (h : s.laidOut = true) :
    (divideByZero s).acc = (Config.divByZero s.acc s.c).acc ∧
      (divideByZero s).c = (Config.divByZero s.acc s.c).c ∧
      (divideByZero s).b = (Config.divByZero s.acc s.c).b := by
  obtain ⟨⟨hap, hab, hac, -⟩, ⟨hpb, hpc, -⟩, ⟨hbc, -⟩, -⟩ := State.registers_ne_of_laidOut h
  refine ⟨?_, ?_, ?_⟩
  · simp [divideByZero, State.acc_eq, State.cell_setOv, State.cell_setCy, State.cell_setB, State.cell_setC,
      State.cell_setAcc, hap, hab, hac]
  · simp [divideByZero, State.c_eq, State.cell_setOv, State.cell_setCy, State.cell_setB, State.cell_setC,
      hpc.symm, hbc.symm]
  · simp [divideByZero, State.b_eq, State.cell_setOv, State.cell_setCy, State.cell_setB, hpb.symm]

theorem divideByZero_ov (s : State) : (divideByZero s).ov = (Config.divByZero s.acc s.c).ov := State.ov_setOv ..

theorem divideByZero_cy {s : State} (h : s.laidOut = true) : (divideByZero s).cy = false :=
  (State.cy_setOv (by exact h) _).trans (State.cy_setCy ..)

/-- Of psw only the bits of cy and ov are written. -/
theorem divideByZero_pswKeeps {s : State} (h : s.laidOut = true) :
    PswKeeps [s.params.bitCy.toNat, s.params.bitOv.toNat] s (divideByZero s) := by
  obtain ⟨⟨hap, -⟩, ⟨hpb, hpc, -⟩, -⟩ := State.registers_ne_of_laidOut h
  refine PswKeeps.setOv (PswKeeps.setCy (.of_psw_eq ?_) _ ?_) _ ?_
  · simp [State.psw_eq, State.cell_setB, State.cell_setC, State.cell_setAcc, hap.symm, hpb, hpc]
  · simp
  · simp

theorem divideByZero_ac {s : State} (h : s.laidOut = true) : (divideByZero s).ac = s.ac := by
  obtain ⟨hcyAc, -, hacOv⟩ := State.flagBits_ne_of_laidOut h
  exact (divideByZero_pswKeeps h).ac_eq rfl (by simp [hcyAc.symm, hacOv])

/-- Three register writes and two writes of psw. -/
theorem divideByZero_keeps (s : State) :
    Keeps [s.params.addrAcc, s.params.addrB, s.params.addrC, s.params.addrPsw] s (divideByZero s) := by
  refine (((((Keeps.refl _ s).setCell _ ?_).setCell _ ?_).setCell _ ?_).setCell _ ?_).setCell _ ?_ <;> simp

end Sys2Proof.Machine

namespace Sys2Proof.Proofs

open Sys2Proof.Machine Sys2Proof.Claims

/-- Settles O16: the effect of div by zero, part by part. -/
theorem divByZeroRunsWithFreeResult : Obligations.DivByZeroRunsWithFreeResult := by
  intro s h hb
  obtain ⟨hacc, hc, hb'⟩ := divideByZero_registers h
  exact ⟨_, exec_div_of_b_eq_zero hb, hacc, hc, hb', divideByZero_ov s, divideByZero_cy h, divideByZero_ac h,
    divideByZero_pswKeeps h, .advance rfl rfl, (divideByZero_keeps s).advance 1⟩

end Sys2Proof.Proofs
end

section
/-! The parameters of R7: what reset gives them, and that no step changes their layout. -/

namespace Sys2Proof.Proofs

open Sys2Proof.Machine

/-- R7's defaults are laid out as the spec's machine has them (R51, R58). -/
theorem laidOut_default : ({} : Params).laidOut = true := by decide

/-- Settles O58: the reset state holds the defaults themselves. -/
theorem resetParameters : Obligations.ResetParameters :=
  ⟨rfl, rfl, rfl, rfl, rfl, rfl, rfl, rfl, rfl, rfl, laidOut_default⟩

/-- Settles O57: the layout speaks of the parameters alone, and no step changes one. -/
theorem stepKeepsLayout : Obligations.StepKeepsLayout := by
  intro s t hs h
  have hparams : t.params = s.params :=
    (State.params_of_runData (runData_of_step h)).trans s.afterBoundary_params
  rw [State.laidOut_of_params_eq hparams, hs]

end Sys2Proof.Proofs
end

section
/-! Flag writes (R24): ac under its write, and the bits of psw that a write of the three flags keeps. -/

namespace Sys2Proof.Machine

theorem State.cell_setAc (s : State) (v : Bool) (a : DataAddr) :
    (s.setAc v).cell a = if a = s.params.addrPsw then setBit s.psw s.params.bitAc.toNat v else s.cell a :=
  State.cell_setPsw ..

/-- psw after a write of ac, bit by bit. -/
theorem State.psw_setAc_getLsbD (s : State) (v : Bool) (m : Nat) :
    (s.setAc v).psw.getLsbD m = if m = s.params.bitAc.toNat then v else s.psw.getLsbD m := by
  rw [State.psw_eq, State.cell_setAc, State.setAc_params, if_pos rfl, getLsbD_setBit _ (BitVec.isLt _)]

theorem State.ac_setAc (s : State) (v : Bool) : (s.setAc v).ac = v := by
  rw [State.ac, State.psw_setAc_getLsbD, State.setAc_params, if_pos rfl]

end Sys2Proof.Machine

namespace Sys2Proof.Claims

open Sys2Proof.Machine

theorem PswKeeps.refl (bits : List Nat) (s : State) : PswKeeps bits s s := fun _ _ => rfl

theorem PswKeeps.mono {bits bits' : List Nat} {s t : State} (h : PswKeeps bits s t) (hsub : bits ⊆ bits') :
    PswKeeps bits' s t := fun n hn => h n fun hmem => hn (hsub hmem)

/-- A write of another cell keeps the whole of psw. -/
theorem PswKeeps.setCell {bits : List Nat} {s t : State} (h : PswKeeps bits s t) {a : DataAddr} (v : Byte)
    (ha : a ≠ t.params.addrPsw) : PswKeeps bits s (t.setCell a v) := fun n hn => by
  rw [State.psw_eq, State.setCell_params, State.cell_setCell_ne t ha.symm, ← State.psw_eq, h n hn]

theorem PswKeeps.setAc {bits : List Nat} {s t : State} (h : PswKeeps bits s t) (v : Bool)
    (hb : t.params.bitAc.toNat ∈ bits) : PswKeeps bits s (t.setAc v) := fun n hn => by
  rw [State.psw_setAc_getLsbD t v n, if_neg (ne_of_mem_of_not_mem hb hn).symm, h n hn]

theorem PswKeeps.setFlags {bits : List Nat} {s t : State} (h : PswKeeps bits s t) (f : Flags)
    (hcy : t.params.bitCy.toNat ∈ bits) (hac : t.params.bitAc.toNat ∈ bits) (hov : t.params.bitOv.toNat ∈ bits) :
    PswKeeps bits s (t.setFlags f) := ((h.setCy f.cy hcy).setAc f.ac hac).setOv f.ov hov

end Sys2Proof.Claims

namespace Sys2Proof.Proofs

open Sys2Proof.Machine Sys2Proof.Claims

/-- Settles O8: each flag write is one write of the psw cell that sets one bit. -/
theorem flagWriteKeepsOtherBits : Obligations.FlagWriteKeepsOtherBits := by
  intro s v
  have keepsPsw (x : Byte) : Keeps [s.params.addrPsw] s (s.setPsw x) :=
    (Keeps.refl _ s).setCell x (List.mem_singleton_self _)
  exact ⟨⟨rfl, rfl, rfl⟩,
    ⟨State.cy_setCy s v, (PswKeeps.refl _ s).setCy v (List.mem_singleton_self _), keepsPsw _⟩,
    ⟨State.ac_setAc s v, (PswKeeps.refl _ s).setAc v (List.mem_singleton_self _), keepsPsw _⟩,
    ⟨State.ov_setOv s v, (PswKeeps.refl _ s).setOv v (List.mem_singleton_self _), keepsPsw _⟩⟩

/-- Settles O7: a register write is a cell write, and a cell write is seen at its own address only. -/
theorem registersAreCells : Obligations.RegistersAreCells := by
  intro s a v
  have register_setCell (r : DataAddr) : (s.setCell a v).cell r = if a = r then v else s.cell r := by
    rw [State.cell_setCell, ite_cond_congr (eq_iff_iff.mpr eq_comm)]
  exact ⟨register_setCell _, register_setCell _, register_setCell _, register_setCell _, register_setCell _,
    register_setCell _, register_setCell _, State.cell_setAcc s v a, State.cell_setPsw s v a,
    State.cell_setB s v a, State.cell_setC s v a, State.cell_setSp s v a⟩

end Sys2Proof.Proofs
end

section
/-! Pointer addressing (R28, R55): PtrCell, PtrBase and EA where the tables say nothing. -/

namespace Sys2Proof.Machine

theorem ptrCell_of_lookup_some {p : Params} {i : BitVec 2} {psw : Byte} {a : DataAddr}
    (h : p.ptrCells.lookup (i, psw) = some a) : ptrCell p i psw = a := by simp [ptrCell, h]

theorem ptrBase_of_lookup_some {p : Params} {i : BitVec 2} {a : DataAddr} (h : p.ptrBases.lookup i = some a) :
    ptrBase p i = a := by simp [ptrBase, h]

/-- Two bank bits and a pointer number, put together as one cell address, as a number. -/
theorem toNat_bank_append (irbk1 irbk0 : Bool) (i : BitVec 2) :
    ((BitVec.ofBool irbk1 ++ BitVec.ofBool irbk0 ++ i).setWidth 9 : DataAddr).toNat =
      8 * irbk1.toNat + 4 * irbk0.toNat + i.toNat := by
  revert irbk1 irbk0 i
  decide

theorem ptrCell_toNat_of_lookup_none {p : Params} {i : BitVec 2} {psw : Byte}
    (h : p.ptrCells.lookup (i, psw) = none) :
    (ptrCell p i psw).toNat =
      8 * (psw.getLsbD p.bitIrbk1.toNat).toNat + 4 * (psw.getLsbD p.bitIrbk0.toNat).toNat + i.toNat := by
  rw [ptrCell, h, Option.getD_none, toNat_bank_append]

/-- The bits 4 and 3 of a byte, as the number of two bits. -/
theorem bits43_toNat (x : Byte) :
    2 * (x.getLsbD 4).toNat + (x.getLsbD 3).toNat = x.toNat / 8 % 4 := by
  simp only [BitVec.getLsbD, Nat.toNat_testBit]
  omega

/-- The default base is 256 times the high bit of the pointer number. -/
theorem ptrBase_toNat_of_lookup_none {p : Params} {i : BitVec 2} (h : p.ptrBases.lookup i = none) :
    (ptrBase p i).toNat = 256 * (i.toNat / 2) := by
  rw [ptrBase, h, Option.getD_none]
  clear h
  revert i
  decide

theorem State.ptr_flat {s : State} (h : s.params.bankMap = []) (i : BitVec 2) :
    s.ptr i = s.cell (ptrCell s.params i s.psw) := State.view_flat h ..

theorem State.ea_toNat (s : State) (i : BitVec 2) :
    (s.ea i).toNat = ((ptrBase s.params i).toNat + (s.ptr i).toNat) % 512 := by
  simp [State.ea]

/-- At the default base no sum passes 0x1FF. -/
theorem State.ea_toNat_of_lookup_none {s : State} {i : BitVec 2} (h : s.params.ptrBases.lookup i = none) :
    (s.ea i).toNat = 256 * (i.toNat / 2) + (s.ptr i).toNat := by
  rw [State.ea_toNat, ptrBase_toNat_of_lookup_none h]
  omega

end Sys2Proof.Machine

namespace Sys2Proof.Proofs

open Sys2Proof.Machine

/-- Settles O9: the two maps, read from their tables or at their defaults, and the sum they enter. -/
theorem pointerAddressing : Obligations.PointerAddressing := by
  intro s i
  refine ⟨rfl, fun hflat => State.ptr_flat hflat i, s.ea_toNat i, fun _ => ptrCell_of_lookup_some,
    fun _ => ptrBase_of_lookup_some, State.ea_toNat_of_lookup_none, fun hnone => ?_⟩
  have hcell := ptrCell_toNat_of_lookup_none hnone
  refine ⟨hcell, ?_, fun h1 h0 => ?_⟩
  · have hbit1 := Bool.toNat_lt (s.psw.getLsbD s.params.bitIrbk1.toNat)
    have hbit0 := Bool.toNat_lt (s.psw.getLsbD s.params.bitIrbk0.toNat)
    omega
  · have hbits := bits43_toNat s.psw
    rw [h1, h0] at hcell
    simp only [BitVec.reduceToNat] at hcell
    omega

end Sys2Proof.Proofs
end

section
/-! The cells an instruction writes (R37): under each shared operation everything but pc and those cells stays,
where the data space is flat. -/

namespace Sys2Proof.Claims

open Sys2Proof.Machine

/-- On a flat data space an access by address writes the cell of its address (R51). -/
theorem Keeps.store {cells : List DataAddr} {s t : State} (h : Keeps cells s t) (hflat : t.params.bankMap = [])
    (k : Access) {a : DataAddr} (v : Byte) (ha : a ∈ cells) : Keeps cells s (t.store k a v) := by
  rw [State.store_flat hflat]
  exact h.setCell v ha

theorem Keeps.setFlags {cells : List DataAddr} {s t : State} (h : Keeps cells s t) (f : Flags)
    (ha : t.params.addrPsw ∈ cells) : Keeps cells s (t.setFlags f) :=
  ((h.setCell _ ha).setCell _ ha).setCell _ ha

theorem Keeps.setPc {cells : List DataAddr} {s t : State} (h : Keeps cells s t) (a : CodeAddr) :
    Keeps cells s (t.setPc a) := h

theorem Keeps.branch {cells : List DataAddr} {s t : State} (h : Keeps cells s t) (taken : Bool) (len : Nat)
    (r8 : Byte) : Keeps cells s (t.branch taken len r8) := h

end Sys2Proof.Claims

namespace Sys2Proof.Machine

open Sys2Proof.Claims

theorem keeps_of_addOp {k : Bool} {src : Host.Outcome Byte Fault Refusal} {len : Nat} {s t : State}
    (h : addOp k src len s = .next t) : Keeps [s.params.addrAcc, s.params.addrPsw] s t := by
  obtain ⟨v, -, rfl⟩ := addOp_eq_next.mp h
  exact (((Keeps.refl _ s).setCell _ (by simp)).setFlags _ (by simp)).advance len

theorem keeps_of_subOp {k : Bool} {src : Host.Outcome Byte Fault Refusal} {len : Nat} {s t : State}
    (h : subOp k src len s = .next t) : Keeps [s.params.addrAcc, s.params.addrPsw] s t := by
  obtain ⟨v, -, rfl⟩ := subOp_eq_next.mp h
  exact (((Keeps.refl _ s).setCell _ (by simp)).setFlags _ (by simp)).advance len

theorem keeps_of_logicOp {f : Byte → Byte → Byte} {src : Host.Outcome Byte Fault Refusal} {len : Nat}
    {s t : State} (h : logicOp f src len s = .next t) : Keeps [s.params.addrAcc] s t := by
  obtain ⟨v, -, rfl⟩ := logicOp_eq_next.mp h
  exact ((Keeps.refl _ s).setCell _ (by simp)).advance len

theorem keeps_of_loadOp {loc : DataAddr} {len : Nat} {s t : State} (h : loadOp loc len s = .next t) :
    Keeps [s.params.addrAcc] s t := by
  obtain ⟨-, rfl⟩ := loadOp_eq_next.mp h
  exact ((Keeps.refl _ s).setCell _ (by simp)).advance len

theorem keeps_of_bitBranchOp {want : Bool} {d9 : DataAddr} {b3 : BitVec 3} {r8 : Byte} {s t : State}
    (h : bitBranchOp want d9 b3 r8 s = .next t) : Keeps [] s t := by
  obtain ⟨-, rfl⟩ := bitBranchOp_eq_next.mp h
  exact (Keeps.refl _ s).branch ..

theorem keeps_of_compareBranchOp {want : Bool} {left right : Host.Outcome Byte Fault Refusal} {r8 : Byte}
    {s t : State} (h : compareBranchOp want left right r8 s = .next t) : Keeps [s.params.addrPsw] s t := by
  obtain ⟨a, v, -, -, rfl⟩ := compareBranchOp_eq_next.mp h
  exact ((Keeps.refl _ s).setCell _ (by simp)).branch ..

theorem keeps_of_exec_mul {s t : State} (h : exec .mul s = .next t) :
    Keeps [s.params.addrAcc, s.params.addrB, s.params.addrC, s.params.addrPsw] s t := by
  obtain rfl := Host.Outcome.next.inj h
  refine ((((((Keeps.refl _ s).setCell _ ?_).setCell _ ?_).setCell _ ?_).setCell _ ?_).setCell _ ?_).advance 1 <;>
    simp

/-- Three register writes and two writes of psw. -/
theorem divide_keeps (s : State) :
    Keeps [s.params.addrAcc, s.params.addrB, s.params.addrC, s.params.addrPsw] s (divide s) := by
  refine (((((Keeps.refl _ s).setCell _ ?_).setCell _ ?_).setCell _ ?_).setCell _ ?_).setCell _ ?_ <;> simp

theorem keeps_of_exec_div {s t : State} (h : exec .div s = .next t) :
    Keeps [s.params.addrAcc, s.params.addrB, s.params.addrC, s.params.addrPsw] s t := by
  by_cases hb : s.b = 0
  · obtain rfl := Host.Outcome.next.inj ((exec_div_of_b_eq_zero hb).symm.trans h)
    exact (divideByZero_keeps s).advance 1
  · obtain rfl := Host.Outcome.next.inj ((exec_div_of_b_ne_zero hb).symm.trans h)
    exact (divide_keeps s).advance 1

/-! The operations that store through an address -/

theorem keeps_of_modifyOp {f : Byte → Byte} {loc : DataAddr} {len : Nat} {s t : State} (hs : s.laidOut = true)
    (h : modifyOp f loc len s = .next t) : Keeps [loc] s t := by
  obtain ⟨-, rfl⟩ := modifyOp_eq_next.mp h
  exact ((Keeps.refl _ s).store (State.bankMap_of_laidOut hs) _ _ (by simp)).advance len

theorem keeps_of_bitOp {f : Byte → Byte → Byte} {d9 : DataAddr} {b3 : BitVec 3} {s t : State}
    (hs : s.laidOut = true) (h : bitOp f d9 b3 s = .next t) : Keeps [d9] s t := by
  obtain ⟨-, rfl⟩ := bitOp_eq_next.mp h
  exact ((Keeps.refl _ s).store (State.bankMap_of_laidOut hs) _ _ (by simp)).advance 2

theorem keeps_of_storeOp {loc : DataAddr} {v : Byte} {len : Nat} {s t : State} (hs : s.laidOut = true)
    (h : storeOp loc v len s = .next t) : Keeps [loc] s t := by
  obtain ⟨-, rfl⟩ := storeOp_eq_next.mp h
  exact ((Keeps.refl _ s).store (State.bankMap_of_laidOut hs) _ _ (by simp)).advance len

theorem keeps_of_exchangeOp {loc : DataAddr} {len : Nat} {s t : State} (hs : s.laidOut = true)
    (h : exchangeOp loc len s = .next t) : Keeps [loc, s.params.addrAcc] s t := by
  obtain ⟨-, rfl⟩ := exchangeOp_eq_next.mp h
  have hstore := (Keeps.refl [loc, s.params.addrAcc] s).store (State.bankMap_of_laidOut hs) .write s.acc
    (List.mem_cons_self ..)
  exact (hstore.setCell _ (by simp)).advance len

theorem keeps_of_decBranchOp {loc : DataAddr} {len : Nat} {r8 : Byte} {s t : State} (hs : s.laidOut = true)
    (h : decBranchOp loc len r8 s = .next t) : Keeps [loc] s t := by
  obtain ⟨-, rfl⟩ := decBranchOp_eq_next.mp h
  exact ((Keeps.refl _ s).store (State.bankMap_of_laidOut hs) _ _ (by simp)).branch ..

/-- bpc writes its cell only where the bit is 1 (R223). -/
theorem keeps_of_execBpc {d9 : DataAddr} {b3 : BitVec 3} {r8 : Byte} {s t : State} (hs : s.laidOut = true)
    (h : execBpc d9 b3 r8 s = .next t) : Keeps (writtenCells (.bpc d9 b3 r8) s) s t := by
  have hflat := State.bankMap_of_laidOut hs
  obtain ⟨-, rfl⟩ := execBpc_eq_next.mp h
  simp only [writtenCells, State.view_flat hflat]
  split
  · exact ((Keeps.refl _ s).store hflat _ _ (by simp)).branch ..
  · exact (Keeps.refl _ s).branch ..

/-! The stack -/

theorem State.pushCell_one (s : State) : s.pushCell 1 = stackCell (s.sp + 1) := rfl

theorem State.pushCell_two (s : State) : s.pushCell 2 = stackCell (s.sp + 1 + 1) := by
  rw [State.pushCell, BitVec.add_assoc]
  rfl

theorem keeps_of_execPush {d9 : DataAddr} {s t : State} (hs : s.laidOut = true) (h : execPush d9 s = .next t) :
    Keeps [s.params.addrSp, s.pushCell 1] s t := by
  obtain ⟨-, -, -, rfl⟩ := execPush_eq_next.mp h
  have hsp := (Keeps.refl [s.params.addrSp, s.pushCell 1] s).setCell (s.sp + 1) (List.mem_cons_self ..)
  exact (hsp.store (State.bankMap_of_laidOut hs) _ _ (by simp [State.pushCell_one])).advance 2

theorem keeps_of_execPop {d9 : DataAddr} {s t : State} (hs : s.laidOut = true) (h : execPop d9 s = .next t) :
    Keeps [d9, s.params.addrSp] s t := by
  obtain ⟨-, -, -, rfl⟩ := execPop_eq_next.mp h
  have hstore := (Keeps.refl [d9, s.params.addrSp] s).store (State.bankMap_of_laidOut hs) .write
    (s.view .pop (stackCell s.sp)) (List.mem_cons_self ..)
  exact (hstore.setCell _ (by simp)).advance 2

theorem keeps_of_pushAddr {a : CodeAddr} {s t : State} (hs : s.laidOut = true) (h : pushAddr a s = .next t) :
    Keeps [s.params.addrSp, s.pushCell 1, s.pushCell 2] s t := by
  obtain ⟨-, -, rfl⟩ := (pushAddr_eq_next hs).mp h
  rw [State.pushCell_one, State.pushCell_two]
  refine ((((Keeps.refl _ s).setCell _ ?_).setCell _ ?_).setCell _ ?_).setCell _ ?_ <;> simp

theorem keeps_of_popAddr {s : State} {r : CodeAddr × State} (hs : s.laidOut = true)
    (h : popAddr s = .next r) : Keeps [s.params.addrSp] s r.2 := by
  obtain ⟨-, -, rfl⟩ := (popAddr_eq_next hs).mp h
  exact ((Keeps.refl _ s).setCell _ (by simp)).setCell _ (by simp)

theorem keeps_of_callOp {target : CodeAddr} {len : Nat} {s t : State} (hs : s.laidOut = true)
    (h : callOp target len s = .next t) : Keeps [s.params.addrSp, s.pushCell 1, s.pushCell 2] s t := by
  obtain ⟨s1, hpush, rfl⟩ := callOp_eq_next.mp h
  exact (keeps_of_pushAddr hs hpush).setPc target

theorem keeps_of_execRet {s t : State} (hs : s.laidOut = true) (h : execRet s = .next t) :
    Keeps [s.params.addrSp] s t := by
  obtain ⟨r, hpop, rfl⟩ := execRet_eq_next.mp h
  exact (keeps_of_popAddr hs hpop).setPc r.1

/-- The return keeps what ret keeps, but for int_hold (R287). -/
theorem keepsCells_of_returnFromInterrupt {s t : State} (hs : s.laidOut = true)
    (h : returnFromInterrupt s = .next t) : KeepsCells [s.params.addrSp] s t := by
  obtain ⟨r, hpop, rfl⟩ := returnFromInterrupt_eq_next.mp h
  obtain ⟨hcells, -⟩ := keeps_of_popAddr hs hpop
  exact hcells

/-! Every instruction -/

/-- An instruction other than reti changes nothing but pc and the cells that R37 gives it. -/
theorem keeps_of_exec {i : Instr} {s t : State} (hs : s.laidOut = true) (hi : i ≠ .reti)
    (h : exec i s = .next t) : Keeps (writtenCells i s) s t := by
  unfold exec at h
  cases i with
  | addImm _ | addDir _ | addInd _ | addcImm _ | addcDir _ | addcInd _ => exact keeps_of_addOp h
  | subImm _ | subDir _ | subInd _ | subcImm _ | subcDir _ | subcInd _ => exact keeps_of_subOp h
  | incDir _ | incInd _ | decDir _ | decInd _ => exact keeps_of_modifyOp hs h
  | mul => exact keeps_of_exec_mul h
  | div => exact keeps_of_exec_div h
  | andImm _ | andDir _ | andInd _ | orImm _ | orDir _ | orInd _ | xorImm _ | xorDir _ | xorInd _ =>
    exact keeps_of_logicOp h
  | rol | ror | ldc =>
    obtain rfl := Host.Outcome.next.inj h
    exact ((Keeps.refl _ s).setCell _ (List.mem_singleton_self _)).advance 1
  | rolc | rorc =>
    obtain rfl := Host.Outcome.next.inj h
    exact (((Keeps.refl _ s).setCell _ (by simp [writtenCells])).setCell _ (by simp [writtenCells])).advance 1
  | clr1 _ _ | set1 _ _ | not1 _ _ => exact keeps_of_bitOp hs h
  | ldDir _ | ldInd _ => exact keeps_of_loadOp h
  | stDir _ | stInd _ | movDir _ _ | movInd _ _ => exact keeps_of_storeOp hs h
  | push _ => exact keeps_of_execPush hs h
  | pop _ => exact keeps_of_execPop hs h
  | xchDir _ | xchInd _ => exact keeps_of_exchangeOp hs h
  | bp _ _ _ | bn _ _ _ => exact keeps_of_bitBranchOp h
  | bpc _ _ _ => exact keeps_of_execBpc hs h
  | dbnzDir _ _ | dbnzInd _ _ => exact keeps_of_decBranchOp hs h
  | beImm _ _ | beDir _ _ | beInd _ _ _ | bneImm _ _ | bneDir _ _ | bneInd _ _ _ =>
    exact keeps_of_compareBranchOp h
  | call _ | callf _ | callr _ => exact keeps_of_callOp hs h
  | ret => exact keeps_of_execRet hs h
  | reti => exact absurd rfl hi
  | ldf | stf => exact absurd h (by simp [execLdf, execStf])
  | jmp _ | jmpf _ | br _ | brf _ | bz _ | bnz _ | nop =>
    obtain rfl := Host.Outcome.next.inj h
    exact (Keeps.refl _ s).setPc _

/-- An instruction changes nothing but pc, int_hold and the cells that R37 gives it. -/
theorem keepsCells_of_exec {i : Instr} {s t : State} (hs : s.laidOut = true) (h : exec i s = .next t) :
    KeepsCells (writtenCells i s) s t := by
  by_cases hi : i = .reti
  · subst hi
    exact keepsCells_of_returnFromInterrupt hs h
  · obtain ⟨hcells, -⟩ := keeps_of_exec hs hi h
    exact hcells

end Sys2Proof.Machine

namespace Sys2Proof.Proofs

open Sys2Proof.Machine

/-- Settles O48: the cells' part of the frame of every instruction. -/
theorem onlyWrittenCellsChange : Obligations.OnlyWrittenCellsChange := by
  intro i s t hs h
  obtain ⟨hcells, -⟩ := keepsCells_of_exec hs h
  exact hcells

end Sys2Proof.Proofs
end

section
/-! The bits of psw an instruction writes (R32). -/

namespace Sys2Proof.Machine

open Sys2Proof.Claims

/-- The bits of psw that the rule of an instruction writes as flags (R32). -/
def writtenFlagBits (i : Instr) (p : Params) : List Nat :=
  (if writesCy i then [p.bitCy.toNat] else []) ++ (if writesAc i then [p.bitAc.toNat] else []) ++
    (if writesOv i then [p.bitOv.toNat] else [])

theorem mem_writtenFlagBits {i : Instr} {p : Params} {n : Nat} :
    n ∈ writtenFlagBits i p ↔
      (writesCy i = true ∧ n = p.bitCy.toNat) ∨ (writesAc i = true ∧ n = p.bitAc.toNat) ∨
        (writesOv i = true ∧ n = p.bitOv.toNat) := by
  simp only [writtenFlagBits, List.mem_append, List.mem_ite_nil_right, List.mem_singleton, or_assoc]

theorem bitCy_mem_writtenFlagBits {i : Instr} (p : Params) (h : writesCy i = true) :
    p.bitCy.toNat ∈ writtenFlagBits i p := mem_writtenFlagBits.mpr (.inl ⟨h, rfl⟩)

theorem bitAc_mem_writtenFlagBits {i : Instr} (p : Params) (h : writesAc i = true) :
    p.bitAc.toNat ∈ writtenFlagBits i p := mem_writtenFlagBits.mpr (.inr (.inl ⟨h, rfl⟩))

theorem bitOv_mem_writtenFlagBits {i : Instr} (p : Params) (h : writesOv i = true) :
    p.bitOv.toNat ∈ writtenFlagBits i p := mem_writtenFlagBits.mpr (.inr (.inr ⟨h, rfl⟩))

/-- Only an instruction whose rule writes cy names the psw cell; any other reaches it as data. -/
theorem addrPsw_mem_storedCells {i : Instr} {s : State} (hs : s.laidOut = true) (hcy : writesCy i = false)
    (h : s.params.addrPsw ∈ writtenCells i s) : s.params.addrPsw ∈ storedCells i s := by
  obtain ⟨⟨haccPsw, -⟩, ⟨-, -, -, -, hpswSp⟩, -⟩ := State.registers_ne_of_laidOut hs
  cases i with
  | addImm _ | addDir _ | addInd _ | addcImm _ | addcDir _ | addcInd _
  | subImm _ | subDir _ | subInd _ | subcImm _ | subcDir _ | subcInd _ | mul | div | rolc | rorc
  | beImm _ _ | beDir _ _ | beInd _ _ _ | bneImm _ _ | bneDir _ _ | bneInd _ _ _ =>
    exact absurd hcy (by simp [writesCy])
  | andImm _ | andDir _ | andInd _ | orImm _ | orDir _ | orInd _ | xorImm _ | xorDir _ | xorInd _
  | rol | ror | ldDir _ | ldInd _ | ldc => exact absurd (List.mem_singleton.mp h) haccPsw.symm
  | xchDir _ | xchInd _ => simpa [writtenCells, storedCells, haccPsw.symm] using h
  | push _ | pop _ | call _ | callf _ | callr _ => simpa [writtenCells, storedCells, hpswSp] using h
  | ret | reti => exact absurd (List.mem_singleton.mp h) hpswSp
  | bpc d9 b3 r8 =>
    obtain ⟨-, hmem⟩ := List.mem_ite_nil_right.mp h
    exact hmem
  | incDir _ | incInd _ | decDir _ | decInd _ | clr1 _ _ | set1 _ _ | not1 _ _ | stDir _ | stInd _
  | movDir _ _ | movInd _ _ | dbnzDir _ _ | dbnzInd _ _ | ldf | stf | jmp _ | jmpf _ | br _ | brf _
  | bz _ | bnz _ | bp _ _ _ | bn _ _ _ | nop => exact h

/-- psw is as before under an instruction that neither writes cy nor stores to the psw cell. -/
theorem psw_eq_of_exec {i : Instr} {s t : State} (hs : s.laidOut = true) (h : exec i s = .next t)
    (hdata : s.params.addrPsw ∉ storedCells i s) (hcy : writesCy i = false) : t.psw = s.psw := by
  obtain ⟨⟨hcell, -⟩, -, hparams, -⟩ := keepsCells_of_exec hs h
  rw [State.psw_eq, State.psw_eq, hparams]
  exact hcell _ fun hmem => hdata (addrPsw_mem_storedCells hs hcy hmem)

section
variable {bits : List Nat} {s t : State}

theorem pswKeeps_of_addOp {k : Bool} {src : Host.Outcome Byte Fault Refusal} {len : Nat}
    (hs : s.laidOut = true) (h : addOp k src len s = .next t) (hcy : s.params.bitCy.toNat ∈ bits)
    (hac : s.params.bitAc.toNat ∈ bits) (hov : s.params.bitOv.toNat ∈ bits) : PswKeeps bits s t := by
  obtain ⟨⟨haccPsw, -⟩, -⟩ := State.registers_ne_of_laidOut hs
  obtain ⟨v, -, rfl⟩ := addOp_eq_next.mp h
  exact ((PswKeeps.refl bits s).setCell _ haccPsw).setFlags _ hcy hac hov

theorem pswKeeps_of_subOp {k : Bool} {src : Host.Outcome Byte Fault Refusal} {len : Nat}
    (hs : s.laidOut = true) (h : subOp k src len s = .next t) (hcy : s.params.bitCy.toNat ∈ bits)
    (hac : s.params.bitAc.toNat ∈ bits) (hov : s.params.bitOv.toNat ∈ bits) : PswKeeps bits s t := by
  obtain ⟨⟨haccPsw, -⟩, -⟩ := State.registers_ne_of_laidOut hs
  obtain ⟨v, -, rfl⟩ := subOp_eq_next.mp h
  exact ((PswKeeps.refl bits s).setCell _ haccPsw).setFlags _ hcy hac hov

theorem pswKeeps_of_compareBranchOp {want : Bool} {left right : Host.Outcome Byte Fault Refusal} {r8 : Byte}
    (h : compareBranchOp want left right r8 s = .next t) (hcy : s.params.bitCy.toNat ∈ bits) :
    PswKeeps bits s t := by
  obtain ⟨a, v, -, -, rfl⟩ := compareBranchOp_eq_next.mp h
  exact (PswKeeps.refl bits s).setCy _ hcy

/-- rolc and rorc: acc, then cy (R154, R156). -/
theorem pswKeeps_setAcc_setCy (hs : s.laidOut = true) (v : Byte) (c : Bool)
    (hcy : s.params.bitCy.toNat ∈ bits) : PswKeeps bits s ((s.setAcc v).setCy c) := by
  obtain ⟨⟨haccPsw, -⟩, -⟩ := State.registers_ne_of_laidOut hs
  exact ((PswKeeps.refl bits s).setCell v haccPsw).setCy c hcy

theorem pswKeeps_of_exec_mul (hs : s.laidOut = true) (h : exec .mul s = .next t)
    (hcy : s.params.bitCy.toNat ∈ bits) (hov : s.params.bitOv.toNat ∈ bits) : PswKeeps bits s t := by
  obtain ⟨⟨haccPsw, -⟩, ⟨hpswB, hpswC, -⟩, -⟩ := State.registers_ne_of_laidOut hs
  obtain rfl := Host.Outcome.next.inj h
  exact (((((PswKeeps.refl bits s).setCell _ hpswB.symm).setCell _ haccPsw).setCell _ hpswC.symm).setCy _
    hcy).setOv _ hov

theorem divide_pswKeeps (hs : s.laidOut = true) (hcy : s.params.bitCy.toNat ∈ bits)
    (hov : s.params.bitOv.toNat ∈ bits) : PswKeeps bits s (divide s) := by
  obtain ⟨⟨haccPsw, -⟩, ⟨hpswB, hpswC, -⟩, -⟩ := State.registers_ne_of_laidOut hs
  exact (((((PswKeeps.refl bits s).setCell _ haccPsw).setCell _ hpswC.symm).setCell _ hpswB.symm).setCy _
    hcy).setOv _ hov

theorem pswKeeps_of_exec_div (hs : s.laidOut = true) (h : exec .div s = .next t)
    (hcy : s.params.bitCy.toNat ∈ bits) (hov : s.params.bitOv.toNat ∈ bits) : PswKeeps bits s t := by
  by_cases hb : s.b = 0
  · obtain rfl := Host.Outcome.next.inj ((exec_div_of_b_eq_zero hb).symm.trans h)
    exact (divideByZero_pswKeeps hs).mono (by simp [hcy, hov])
  · obtain rfl := Host.Outcome.next.inj ((exec_div_of_b_ne_zero hb).symm.trans h)
    exact divide_pswKeeps hs hcy hov

/-- An instruction that does not store to the psw cell changes no bit of psw but the flags R32 gives it. -/
theorem pswKeeps_of_exec {i : Instr} (hs : s.laidOut = true) (h : exec i s = .next t)
    (hdata : s.params.addrPsw ∉ storedCells i s) : PswKeeps (writtenFlagBits i s.params) s t := by
  cases hwrites : writesCy i with
  | false => exact .of_psw_eq (psw_eq_of_exec hs h hdata hwrites)
  | true =>
    have hcy := bitCy_mem_writtenFlagBits s.params hwrites
    unfold exec at h
    cases i with
    | addImm _ | addDir _ | addInd _ | addcImm _ | addcDir _ | addcInd _ =>
      exact pswKeeps_of_addOp hs h hcy (bitAc_mem_writtenFlagBits _ rfl) (bitOv_mem_writtenFlagBits _ rfl)
    | subImm _ | subDir _ | subInd _ | subcImm _ | subcDir _ | subcInd _ =>
      exact pswKeeps_of_subOp hs h hcy (bitAc_mem_writtenFlagBits _ rfl) (bitOv_mem_writtenFlagBits _ rfl)
    | mul => exact pswKeeps_of_exec_mul hs h hcy (bitOv_mem_writtenFlagBits _ rfl)
    | div => exact pswKeeps_of_exec_div hs h hcy (bitOv_mem_writtenFlagBits _ rfl)
    | rolc | rorc =>
      obtain rfl := Host.Outcome.next.inj h
      exact pswKeeps_setAcc_setCy hs _ _ hcy
    | beImm _ _ | beDir _ _ | beInd _ _ _ | bneImm _ _ | bneDir _ _ | bneInd _ _ _ =>
      exact pswKeeps_of_compareBranchOp h hcy
    | _ => exact absurd hwrites (by simp [writesCy])

end

end Sys2Proof.Machine

namespace Sys2Proof.Proofs

open Sys2Proof.Machine Sys2Proof.Claims

/-- Settles O49: the three flags are three bits, so one that is not written is not among the bits written. -/
theorem onlyFlagWritersChangeFlags : Obligations.OnlyFlagWritersChangeFlags := by
  intro i s t hs h hdata
  obtain ⟨hcyAc, hcyOv, hacOv⟩ := State.flagBits_ne_of_laidOut hs
  have hparams : t.params = s.params := State.params_of_runData (runData_of_exec h)
  have hpsw : PswKeeps (writtenFlagBits i s.params) s t := pswKeeps_of_exec hs h hdata
  refine ⟨fun hcy => ?_, fun hac => ?_, fun hov => ?_, hpsw.mono fun n hn => ?_⟩
  · rw [State.cy, hparams]
    exact hpsw _ (by simp [mem_writtenFlagBits, hcy, hcyAc, hcyOv])
  · rw [State.ac, hparams]
    exact hpsw _ (by simp [mem_writtenFlagBits, hac, hcyAc.symm, hacOv])
  · rw [State.ov, hparams]
    exact hpsw _ (by simp [mem_writtenFlagBits, hov, hcyOv.symm, hacOv.symm])
  · obtain ⟨-, rfl⟩ | ⟨-, rfl⟩ | ⟨-, rfl⟩ := mem_writtenFlagBits.mp hn <;> simp

end Sys2Proof.Proofs
end

section
/-! What every update of an instruction keeps, every instruction keeps, whatever BankMap is; int_hold is of that
kind but under reti (R34). -/

namespace Sys2Proof.Machine

/-- The updates that an instruction other than reti is made of, cell writes and loads of pc, keep the property. -/
structure KeptByUpdates (P : State → Prop) : Prop where
  setCell : ∀ {s : State} (a : DataAddr) (v : Byte), P s → P (s.setCell a v)
  store : ∀ {s : State} (k : Access) (a : DataAddr) (v : Byte), P s → P (s.store k a v)
  setPc : ∀ {s : State} (a : CodeAddr), P s → P (s.setPc a)

namespace KeptByUpdates

variable {P : State → Prop} {s t : State}

theorem setFlags (hP : KeptByUpdates P) (f : Flags) (hs : P s) : P (s.setFlags f) :=
  hP.setCell _ _ (hP.setCell _ _ (hP.setCell _ _ hs))

theorem push (hP : KeptByUpdates P) {v : Byte} (h : Machine.push v s = .next t) (hs : P s) : P t := by
  obtain ⟨-, rfl⟩ := push_eq_next.mp h
  exact hP.store _ _ _ (hP.setCell _ _ hs)

theorem pop (hP : KeptByUpdates P) {r : Byte × State} (h : Machine.pop s = .next r) (hs : P s) : P r.2 := by
  obtain ⟨-, rfl⟩ := pop_eq_next.mp h
  exact hP.setCell _ _ hs

theorem pushAddr (hP : KeptByUpdates P) {a : CodeAddr} (h : Machine.pushAddr a s = .next t) (hs : P s) : P t := by
  obtain ⟨s1, hlo, hhi⟩ := andThen_eq_next.mp h
  exact hP.push hhi (hP.push hlo hs)

theorem popAddr (hP : KeptByUpdates P) {r : CodeAddr × State} (h : Machine.popAddr s = .next r) (hs : P s) :
    P r.2 := by
  obtain ⟨hi, hhi, h⟩ := andThen_eq_next.mp h
  obtain ⟨lo, hlo, h⟩ := andThen_eq_next.mp h
  obtain rfl := Host.Outcome.next.inj h
  exact hP.pop hlo (hP.pop hhi hs)

theorem exec_div (hP : KeptByUpdates P) (h : Machine.exec .div s = .next t) (hs : P s) : P t := by
  have registers_and_flags (a b c : DataAddr) (x y z v w : Byte) :
      P (((((s.setCell a x).setCell b y).setCell c z).setPsw v).setPsw w) :=
    hP.setCell _ _ (hP.setCell _ _ (hP.setCell _ _ (hP.setCell _ _ (hP.setCell _ _ hs))))
  by_cases hb : s.b = 0
  · obtain rfl := Host.Outcome.next.inj ((exec_div_of_b_eq_zero hb).symm.trans h)
    exact hP.setPc _ (registers_and_flags ..)
  · obtain rfl := Host.Outcome.next.inj ((exec_div_of_b_ne_zero hb).symm.trans h)
    exact hP.setPc _ (registers_and_flags ..)

/-- An instruction other than reti keeps what its updates keep. -/
theorem exec (hP : KeptByUpdates P) {i : Instr} (hi : i ≠ .reti) (h : Machine.exec i s = .next t) (hs : P s) :
    P t := by
  unfold Machine.exec at h
  cases i with
  | addImm _ | addDir _ | addInd _ | addcImm _ | addcDir _ | addcInd _ =>
    obtain ⟨v, -, rfl⟩ := addOp_eq_next.mp h
    exact hP.setPc _ (hP.setFlags _ (hP.setCell _ _ hs))
  | subImm _ | subDir _ | subInd _ | subcImm _ | subcDir _ | subcInd _ =>
    obtain ⟨v, -, rfl⟩ := subOp_eq_next.mp h
    exact hP.setPc _ (hP.setFlags _ (hP.setCell _ _ hs))
  | incDir _ | incInd _ | decDir _ | decInd _ =>
    obtain ⟨-, rfl⟩ := modifyOp_eq_next.mp h
    exact hP.setPc _ (hP.store _ _ _ hs)
  | mul =>
    obtain rfl := Host.Outcome.next.inj h
    exact hP.setPc _ (hP.setCell _ _ (hP.setCell _ _ (hP.setCell _ _ (hP.setCell _ _ (hP.setCell _ _ hs)))))
  | div => exact hP.exec_div h hs
  | andImm _ | andDir _ | andInd _ | orImm _ | orDir _ | orInd _ | xorImm _ | xorDir _ | xorInd _ =>
    obtain ⟨v, -, rfl⟩ := logicOp_eq_next.mp h
    exact hP.setPc _ (hP.setCell _ _ hs)
  | rol | ror | ldc =>
    obtain rfl := Host.Outcome.next.inj h
    exact hP.setPc _ (hP.setCell _ _ hs)
  | rolc | rorc =>
    obtain rfl := Host.Outcome.next.inj h
    exact hP.setPc _ (hP.setCell _ _ (hP.setCell _ _ hs))
  | clr1 _ _ | set1 _ _ | not1 _ _ =>
    obtain ⟨-, rfl⟩ := bitOp_eq_next.mp h
    exact hP.setPc _ (hP.store _ _ _ hs)
  | ldDir _ | ldInd _ =>
    obtain ⟨-, rfl⟩ := loadOp_eq_next.mp h
    exact hP.setPc _ (hP.setCell _ _ hs)
  | stDir _ | stInd _ | movDir _ _ | movInd _ _ =>
    obtain ⟨-, rfl⟩ := storeOp_eq_next.mp h
    exact hP.setPc _ (hP.store _ _ _ hs)
  | push _ =>
    obtain ⟨-, -, -, rfl⟩ := execPush_eq_next.mp h
    exact hP.setPc _ (hP.store _ _ _ (hP.setCell _ _ hs))
  | pop _ =>
    obtain ⟨-, -, -, rfl⟩ := execPop_eq_next.mp h
    exact hP.setPc _ (hP.setCell _ _ (hP.store _ _ _ hs))
  | xchDir _ | xchInd _ =>
    obtain ⟨-, rfl⟩ := exchangeOp_eq_next.mp h
    exact hP.setPc _ (hP.setCell _ _ (hP.store _ _ _ hs))
  | bp _ _ _ | bn _ _ _ =>
    obtain ⟨-, rfl⟩ := bitBranchOp_eq_next.mp h
    exact hP.setPc _ hs
  | bpc _ _ _ =>
    obtain ⟨-, rfl⟩ := execBpc_eq_next.mp h
    split
    · exact hP.setPc _ (hP.store _ _ _ hs)
    · exact hP.setPc _ hs
  | dbnzDir _ _ | dbnzInd _ _ =>
    obtain ⟨-, rfl⟩ := decBranchOp_eq_next.mp h
    exact hP.setPc _ (hP.store _ _ _ hs)
  | beImm _ _ | beDir _ _ | beInd _ _ _ | bneImm _ _ | bneDir _ _ | bneInd _ _ _ =>
    obtain ⟨a, v, -, -, rfl⟩ := compareBranchOp_eq_next.mp h
    exact hP.setPc _ (hP.setCell _ _ hs)
  | call _ | callf _ | callr _ =>
    obtain ⟨s1, hpush, rfl⟩ := callOp_eq_next.mp h
    exact hP.setPc _ (hP.pushAddr hpush hs)
  | ret =>
    obtain ⟨r, hpop, rfl⟩ := execRet_eq_next.mp h
    exact hP.setPc _ (hP.popAddr hpop hs)
  | reti => exact absurd rfl hi
  | ldf | stf => exact absurd h (by simp [execLdf, execStf])
  | jmp _ | jmpf _ | br _ | brf _ | bz _ | bnz _ | nop =>
    obtain rfl := Host.Outcome.next.inj h
    exact hP.setPc _ hs

end KeptByUpdates

/-- No cell write and no load of pc moves int_hold. -/
theorem keptByUpdates_intHold (v : Bool) : KeptByUpdates fun s => s.intHold = v where
  setCell _ _ h := h
  store _ _ _ h := h
  setPc _ h := h

/-- Of the instructions only reti changes int_hold: it clears it. -/
theorem intHold_of_exec {i : Instr} {s t : State} (h : exec i s = .next t) :
    t.intHold = if i = .reti then false else s.intHold := by
  by_cases hi : i = .reti
  · subst hi
    obtain ⟨r, -, rfl⟩ := returnFromInterrupt_eq_next.mp h
    rfl
  · rw [if_neg hi]
    exact (keptByUpdates_intHold s.intHold).exec hi h rfl

@[simp] theorem State.afterBoundary_intHold (s : State) : s.afterBoundary.intHold = s.intHold := by
  unfold State.afterBoundary
  split <;> rfl

end Sys2Proof.Machine

namespace Sys2Proof.Proofs

open Sys2Proof.Machine

/-- Settles O50: a step that runs an instruction cannot set int_hold, so one that sets it entered an interrupt. -/
theorem intHoldWriters : Obligations.IntHoldWriters := by
  refine ⟨fun i s t h => intHold_of_exec h, fun s t h hclear hset => ?_⟩
  obtain ⟨src, haccepted, -⟩ | ⟨-, hexec⟩ := step_eq_next.mp h
  · simp [haccepted]
  · have hkept := intHold_of_exec hexec
    simp [hclear, hset] at hkept

end Sys2Proof.Proofs
end

section
/-! The first step after reset (R311). -/

namespace Sys2Proof.Machine

/-- Where the schedule is at its end nothing is accepted. -/
theorem State.accepted_of_requests_nil {s : State} (h : s.requests = []) : s.accepted = none := by
  simp [State.accepted, h]

/-- A schedule at its end does not move. -/
theorem State.afterBoundary_of_requests_nil {s : State} (h : s.requests = []) : s.afterBoundary = s := by
  obtain ⟨⟩ := s
  obtain rfl : _ = [] := h
  simp [State.afterBoundary]

/-- Where nothing is ever requested again a step runs the instruction at pc in the state itself. -/
theorem step_of_requests_nil {s : State} (h : s.requests = []) : step s = exec s.fetch s := by
  simp only [step, State.accepted_of_requests_nil h, State.afterBoundary_of_requests_nil h]

/-- The bytes of the instruction at pc by their addresses as numbers, modulo 65536 (R56, R321). -/
theorem State.fetch_eq (s : State) :
    s.fetch = decode3 (Memory.read s.rom s.pc.toNat) (Memory.read s.rom ((s.pc.toNat + 1) % 65536))
      (Memory.read s.rom ((s.pc.toNat + 2) % 65536)) := by
  simp [State.fetch, State.romRead]

end Sys2Proof.Machine

namespace Sys2Proof.Proofs

open Sys2Proof.Machine

/-- Settles O54: the reset state's schedule is empty, so its first step is the instruction at RESET_PC. -/
theorem resetPcAndIntHold : Obligations.ResetPcAndIntHold := by
  refine ⟨rfl, rfl, fun p rom => ⟨rfl, rfl, ?_⟩⟩
  rw [step_of_requests_nil rfl, State.fetch_eq]
  rfl

end Sys2Proof.Proofs
end

section
/-! The canonical form of the two memories (log 2): every update an instruction is made of keeps it, so every step
does. -/

namespace Sys2Proof.Machine

namespace KeptByUpdates

variable {P : State → Prop} {s t : State}

theorem enterInterrupt (hP : KeptByUpdates P) (hhold : ∀ {s : State} (v : Bool), P s → P (s.setIntHold v))
    {vector : CodeAddr} (h : Machine.enterInterrupt vector s = .next t) (hs : P s) : P t := by
  obtain ⟨s1, hpush, rfl⟩ := enterInterrupt_eq_next.mp h
  exact hP.setPc _ (hhold _ (hP.pushAddr hpush hs))

theorem returnFromInterrupt (hP : KeptByUpdates P) (hhold : ∀ {s : State} (v : Bool), P s → P (s.setIntHold v))
    (h : Machine.returnFromInterrupt s = .next t) (hs : P s) : P t := by
  obtain ⟨r, hpop, rfl⟩ := returnFromInterrupt_eq_next.mp h
  exact hhold _ (hP.setPc _ (hP.popAddr hpop hs))

/-- A step keeps what the updates of the instructions, those of int_hold and the boundary keep. -/
theorem step (hP : KeptByUpdates P) (hhold : ∀ {s : State} (v : Bool), P s → P (s.setIntHold v))
    (hboundary : P s → P s.afterBoundary) (h : Machine.step s = .next t) (hs : P s) : P t := by
  obtain ⟨src, -, henter⟩ | ⟨-, hexec⟩ := step_eq_next.mp h
  · exact hP.enterInterrupt hhold henter (hboundary hs)
  · by_cases hreti : s.fetch = .reti
    · rw [hreti] at hexec
      exact hP.returnFromInterrupt hhold hexec (hboundary hs)
    · exact hP.exec hreti hexec (hboundary hs)

end KeptByUpdates

/-- Every cell written exists, so every cell write keeps the canonical form; pc is no part of it. -/
theorem keptByUpdates_wf : KeptByUpdates fun s => s.wf = true where
  setCell := State.wf_setCell
  store := State.wf_store
  setPc _ h := h

@[simp] theorem State.wf_afterBoundary (s : State) : s.afterBoundary.wf = s.wf := by
  unfold State.afterBoundary
  split <;> rfl

end Sys2Proof.Machine

namespace Sys2Proof.Proofs

open Sys2Proof.Machine

/-- Settles O52: the canonical form is a property that every update of a step keeps. -/
theorem stepKeepsMemoryForm : Obligations.StepKeepsMemoryForm := by
  intro s t hs h
  exact keptByUpdates_wf.step (fun _ hwf => hwf) (fun hwf => s.wf_afterBoundary.trans hwf) h hs

end Sys2Proof.Proofs
end

section
/-! ROM space and the parameters under a step (R35, R57): an instruction keeps the whole of the run, and the
boundary moves on the schedule alone. -/

namespace Sys2Proof.Machine

@[simp] theorem State.afterBoundary_rom (s : State) : s.afterBoundary.rom = s.rom := by
  unfold State.afterBoundary
  split <;> rfl

@[simp] theorem State.afterBoundary_deviceCells (s : State) : s.afterBoundary.deviceCells = s.deviceCells := by
  unfold State.afterBoundary
  split <;> rfl

@[simp] theorem State.afterBoundary_intSources (s : State) : s.afterBoundary.intSources = s.intSources := by
  unfold State.afterBoundary
  split <;> rfl

end Sys2Proof.Machine

namespace Sys2Proof.Proofs

open Sys2Proof.Machine

/-- Settles O51: of the run a step changes only the schedule. -/
theorem stepKeepsRomAndParameters : Obligations.StepKeepsRomAndParameters := by
  intro s t h
  obtain ⟨hrom, hdev, hsrc, -, hpar⟩ := State.runData_eq_iff.mp (runData_of_step h)
  exact ⟨hrom.trans s.afterBoundary_rom, hpar.trans s.afterBoundary_params,
    hdev.trans s.afterBoundary_deviceCells, hsrc.trans s.afterBoundary_intSources⟩

end Sys2Proof.Proofs
end

section
/-! MemRead and MemWrite (R52, R53) and BankMap (R7, R51). -/

namespace Sys2Proof.Machine

theorem State.isDevice_eq_true {s : State} {a : DataAddr} : s.isDevice a = true ↔ a ∈ s.deviceCells := by
  simp [State.isDevice]

theorem State.isDevice_eq_false {s : State} {a : DataAddr} : s.isDevice a = false ↔ a ∉ s.deviceCells := by
  simp [State.isDevice]

theorem State.bank_of_lookup_some {s : State} {k : Access} {a : DataAddr} {p : PhysCell}
    (h : s.params.bankMap.lookup (a, s.psw, k) = some p) : s.bank k a = p := by simp [State.bank, h]

/-- A data address and the physical cell of that number are the same number. -/
theorem cellOf_toNat (a : DataAddr) : (a.setWidth 16 : PhysCell).toNat = a.toNat := by
  simp only [BitVec.toNat_setWidth]
  omega

theorem State.bank_toNat_of_lookup_none {s : State} {k : Access} {a : DataAddr}
    (h : s.params.bankMap.lookup (a, s.psw, k) = none) : (s.bank k a).toNat = a.toNat := by
  rw [State.bank, h, Option.getD_none, cellOf_toNat]

theorem State.bank_toNat_flat {s : State} (h : s.params.bankMap = []) (k : Access) (a : DataAddr) :
    (s.bank k a).toNat = a.toNat := by
  rw [State.bank_flat h, cellOf_toNat]

/-- A store is seen in the physical cell that BankMap gives and in no other. -/
theorem State.phys_store (s : State) (k : Access) (a : DataAddr) (v : Byte) (p : PhysCell) :
    (s.store k a v).phys p = if p = s.bank k a then v else s.phys p := State.phys_setPhys ..

theorem memRead_flat {s : State} {a : DataAddr} (h : s.params.bankMap = []) (hd : s.isDevice a = false) :
    memRead a s = .next (s.cell a) := by
  rw [memRead_of_not_device hd, State.view_flat h]

theorem memWrite_flat {s : State} {a : DataAddr} (v : Byte) (h : s.params.bankMap = [])
    (hd : s.isDevice a = false) : memWrite a v s = .next (s.setCell a v) := by
  rw [memWrite_of_not_device hd, State.store_flat h]

end Sys2Proof.Machine

namespace Sys2Proof.Proofs

open Sys2Proof.Machine Sys2Proof.Claims

/-- Settles O6: device cells are refused; any other access is of the one physical cell that BankMap gives. -/
theorem memReadAndMemWrite : Obligations.MemReadAndMemWrite := by
  intro s a v
  refine ⟨fun hdev => ?_, fun hdev => ?_, fun k p => State.bank_of_lookup_some,
    fun k => State.bank_toNat_of_lookup_none,
    fun hflat => ⟨fun k => State.bank_toNat_flat hflat k a, fun hdev => ?_⟩⟩
  · have hd := State.isDevice_eq_true.mpr hdev
    exact ⟨memRead_of_device hd, memWrite_of_device hd⟩
  · have hd := State.isDevice_eq_false.mpr hdev
    refine ⟨memRead_of_not_device hd, _, memWrite_of_not_device hd, ?_, fun p hp => ?_, rfl, rfl, .of_runData rfl⟩
    · rw [State.phys_store, if_pos rfl]
    · rw [State.phys_store, if_neg hp]
  · have hd := State.isDevice_eq_false.mpr hdev
    refine ⟨memRead_flat hflat hd, _, memWrite_flat v hflat hd, ?_,
      (Keeps.refl _ s).setCell v (List.mem_singleton_self a)⟩
    rw [memRead_flat (s := s.setCell a v) hflat hd, State.cell_setCell_self]

end Sys2Proof.Proofs
end

section
/-! Push and Pop (R58, R59), where the data space is flat and no stack cell is a register's. -/

namespace Sys2Proof.Claims

open Sys2Proof.Machine

/-- A cell that holds what it held needs no mention in a frame. -/
theorem Keeps.of_cons {cells : List DataAddr} {s t : State} {a : DataAddr} (h : Keeps (a :: cells) s t)
    (ha : t.cell a = s.cell a) : Keeps cells s t := by
  obtain ⟨⟨⟨hcell, hphys⟩, hrun⟩, hhold⟩ := h
  refine ⟨⟨⟨fun b hb => ?_, hphys⟩, hrun⟩, hhold⟩
  by_cases hab : b = a
  · rw [hab, ha]
  · exact hcell b (by simp [hab, hb])

end Sys2Proof.Claims

namespace Sys2Proof.Machine

open Sys2Proof.Claims

/-- Which cells are devices is a parameter of the run. -/
theorem State.isDevice_of_runData {s t : State} (h : t.runData = s.runData) : t.isDevice = s.isDevice := by
  obtain ⟨-, hdev, -⟩ := State.runData_eq_iff.mp h
  unfold State.isDevice
  rw [hdev]

/-- A stack cell's address is the value of sp that points at it (R58). -/
theorem stackCell_toNat (sp : Byte) : (stackCell sp).toNat = sp.toNat := by
  simp only [stackCell, BitVec.toNat_setWidth]
  omega

section
variable {v : Byte} {s t : State}

theorem push_eq_next_of_laidOut (hs : s.laidOut = true) :
    push v s = .next t ↔
      s.isDevice (stackCell (s.sp + 1)) = false ∧
        t = (s.setSp (s.sp + 1)).setCell (stackCell (s.sp + 1)) v := by
  rw [push_eq_next, State.store_flat (s := s.setSp _) (State.bankMap_of_laidOut hs)]

theorem sp_of_push (hs : s.laidOut = true) (h : push v s = .next t) : t.sp = s.sp + 1 := by
  obtain ⟨-, rfl⟩ := (push_eq_next_of_laidOut hs).mp h
  rw [State.sp_setCell_stack (s := s.setSp _) hs, State.sp_setSp]

theorem cell_of_push (hs : s.laidOut = true) (h : push v s = .next t) : t.cell (stackCell (s.sp + 1)) = v := by
  obtain ⟨-, rfl⟩ := (push_eq_next_of_laidOut hs).mp h
  exact State.cell_setCell_self ..

theorem keeps_of_push (hs : s.laidOut = true) (h : push v s = .next t) :
    Keeps [s.params.addrSp, stackCell (s.sp + 1)] s t := by
  obtain ⟨-, rfl⟩ := (push_eq_next_of_laidOut hs).mp h
  exact ((Keeps.refl _ s).setCell _ (by simp)).setCell v (by simp)

theorem pc_of_push (h : push v s = .next t) : t.pc = s.pc := by
  obtain ⟨-, rfl⟩ := push_eq_next.mp h
  rfl

theorem pop_of_laidOut (hs : s.laidOut = true) (hd : s.isDevice (stackCell s.sp) = false) :
    pop s = .next (s.cell (stackCell s.sp), s.setSp (s.sp - 1)) := by
  rw [← State.view_flat (State.bankMap_of_laidOut hs) .pop]
  exact pop_eq_next.mpr ⟨hd, rfl⟩

/-- Pop right after Push gives the byte back and sp as it was (R58, R59). -/
theorem pop_of_push (hs : s.laidOut = true) (h : push v s = .next t) : pop t = .next (v, t.setSp s.sp) := by
  obtain ⟨hd, -⟩ := push_eq_next.mp h
  have hrun := runData_of_push h
  have ht : t.laidOut = true := (State.laidOut_of_params_eq (State.params_of_runData hrun)).trans hs
  have hdt : t.isDevice (stackCell (s.sp + 1)) = false := by rw [State.isDevice_of_runData hrun, hd]
  rw [← sp_of_push hs h] at hdt
  rw [pop_of_laidOut ht hdt, sp_of_push hs h, cell_of_push hs h, BitVec.add_sub_cancel]

end

end Sys2Proof.Machine

namespace Sys2Proof.Proofs

open Sys2Proof.Machine Sys2Proof.Claims

/-- Settles O10: Push and Pop each write sp and at most one stack cell, and a stack cell is never sp's. -/
theorem pushAndPop : Obligations.PushAndPop := by
  intro s v hs
  refine ⟨stackCell_toNat s.sp, fun hd => ?_, fun hd => ?_⟩
  · obtain ⟨t, h⟩ : ∃ t, push v s = .next t := ⟨_, (push_eq_next_of_laidOut hs).mpr ⟨hd, rfl⟩⟩
    have hkeeps := keeps_of_push hs h
    have hsp : t.params.addrSp = s.params.addrSp := by rw [State.params_of_runData (runData_of_push h)]
    refine ⟨t, t.setSp s.sp, h, ?_, cell_of_push hs h, pc_of_push h, hkeeps, pop_of_push hs h, t.sp_setSp _, ?_⟩
    · simp [sp_of_push hs h, BitVec.toNat_add]
    · refine (hkeeps.setCell s.sp (by simp [hsp])).of_cons ?_
      rw [hsp, State.cell_setCell_self, State.sp_eq]
  · refine ⟨_, pop_of_laidOut hs hd, ?_, rfl, (Keeps.refl _ s).setCell _ (by simp)⟩
    simp [BitVec.toNat_sub, Nat.add_comm]

end Sys2Proof.Proofs
end

section
/-! When an instruction completes (R282): the first device cell among those it accesses refuses it (D12), and
nothing else does but D17 and D18. -/

namespace Sys2Proof.Machine

/-- The operation makes its accesses at these cells in this order: the first one that is a device refuses it, and
where none is it answers. -/
structure RefusedOnlyAt {α : Type} (dev : DataAddr → Bool) (cells : List DataAddr)
    (r : Host.Outcome α Fault Refusal) : Prop where
  refused : ∀ {a : DataAddr}, cells.find? dev = some a → r = .refused (.deviceCell a)
  answers : cells.find? dev = none → ∃ x, r = .next x

namespace RefusedOnlyAt

variable {α β : Type} {dev : DataAddr → Bool} {cells cells' : List DataAddr} {r : Host.Outcome α Fault Refusal}
  {k : α → Host.Outcome β Fault Refusal}

theorem next (x : α) : RefusedOnlyAt dev [] (.next x) := ⟨nofun, fun _ => ⟨x, rfl⟩⟩

theorem of_device {a : DataAddr} (h : dev a = true) : RefusedOnlyAt dev [a] (α := α) (.refused (.deviceCell a)) := by
  refine ⟨fun hsome => ?_, fun hnone => ?_⟩
  · obtain rfl : a = _ := by simpa [h] using hsome
    rfl
  · simp [h] at hnone

theorem next_of_not_device {a : DataAddr} (h : dev a = false) (x : α) : RefusedOnlyAt dev [a] (.next x) :=
  ⟨fun hsome => by simp [h] at hsome, fun _ => ⟨x, rfl⟩⟩

/-- In a sequence the second part's accesses come after the first part's. -/
theorem andThen (hr : RefusedOnlyAt dev cells r) (hk : ∀ x, r = .next x → RefusedOnlyAt dev cells' (k x)) :
    RefusedOnlyAt dev (cells ++ cells') (Machine.andThen r k) := by
  cases hfind : cells.find? dev with
  | some a =>
    obtain rfl := hr.refused hfind
    have hall : (cells ++ cells').find? dev = some a := by rw [List.find?_append, hfind, Option.some_or]
    refine ⟨fun hsome => ?_, fun hnone => ?_⟩
    · rw [hall] at hsome
      rw [andThen_refused, Option.some.inj hsome]
    · rw [hall] at hnone
      exact nomatch hnone
  | none =>
    obtain ⟨x, rfl⟩ := hr.answers hfind
    have hall : (cells ++ cells').find? dev = cells'.find? dev := by
      rw [List.find?_append, hfind, Option.none_or]
    exact ⟨fun hsome => (hk x rfl).refused (hall.symm.trans hsome),
      fun hnone => (hk x rfl).answers (hall.symm.trans hnone)⟩

/-- What is computed from an answer accesses nothing. -/
theorem map (hr : RefusedOnlyAt dev cells r) (f : α → β) :
    RefusedOnlyAt dev cells (Machine.andThen r fun x => .next (f x)) := by
  rw [← List.append_nil cells]
  exact hr.andThen fun x _ => .next (f x)

/-- A second access at the cell of the first is never the one that is refused. -/
theorem of_twice {a : DataAddr} (h : RefusedOnlyAt dev [a, a] r) : RefusedOnlyAt dev [a] r := by
  have hfind : [a, a].find? dev = [a].find? dev := by cases hd : dev a <;> simp [hd]
  exact ⟨fun hsome => h.refused (hfind.trans hsome), fun hnone => h.answers (hfind.trans hnone)⟩

end RefusedOnlyAt

/-! Accesses (R52, R53) -/

theorem refusedOnlyAt_readVia (k : Access) (a : DataAddr) (s : State) :
    RefusedOnlyAt s.isDevice [a] (readVia k a s) := by
  cases hd : s.isDevice a with
  | false => rw [readVia_of_not_device hd]; exact .next_of_not_device hd _
  | true => rw [readVia_of_device hd]; exact .of_device hd

theorem refusedOnlyAt_writeVia (k : Access) (a : DataAddr) (v : Byte) (s : State) :
    RefusedOnlyAt s.isDevice [a] (writeVia k a v s) := by
  cases hd : s.isDevice a with
  | false => rw [writeVia_of_not_device hd]; exact .next_of_not_device hd _
  | true => rw [writeVia_of_device hd]; exact .of_device hd

theorem refusedOnlyAt_memRead (a : DataAddr) (s : State) : RefusedOnlyAt s.isDevice [a] (memRead a s) :=
  refusedOnlyAt_readVia ..

theorem refusedOnlyAt_memWrite (a : DataAddr) (v : Byte) (s : State) :
    RefusedOnlyAt s.isDevice [a] (memWrite a v s) := refusedOnlyAt_writeVia ..

/-! The shared operations -/

section
variable {dev : DataAddr → Bool} {cells : List DataAddr} {src : Host.Outcome Byte Fault Refusal}

theorem refusedOnlyAt_addOp (h : RefusedOnlyAt dev cells src) (k : Bool) (len : Nat) (s : State) :
    RefusedOnlyAt dev cells (addOp k src len s) := h.map _

theorem refusedOnlyAt_subOp (h : RefusedOnlyAt dev cells src) (k : Bool) (len : Nat) (s : State) :
    RefusedOnlyAt dev cells (subOp k src len s) := h.map _

theorem refusedOnlyAt_logicOp (h : RefusedOnlyAt dev cells src) (f : Byte → Byte → Byte) (len : Nat) (s : State) :
    RefusedOnlyAt dev cells (logicOp f src len s) := h.map _

/-- be and bne with the constant on the right. -/
theorem refusedOnlyAt_compareBranchOp_imm (h : RefusedOnlyAt dev cells src) (want : Bool) (i8 r8 : Byte)
    (s : State) : RefusedOnlyAt dev cells (compareBranchOp want src (srcImm i8) r8 s) := h.map _

/-- be and bne of acc. -/
theorem refusedOnlyAt_compareBranchOp_acc (h : RefusedOnlyAt dev cells src) (want : Bool) (r8 : Byte)
    (s : State) : RefusedOnlyAt dev cells (compareBranchOp want (.next s.acc) src r8 s) := h.map _

end

theorem refusedOnlyAt_modifyOp (f : Byte → Byte) (loc : DataAddr) (len : Nat) (s : State) :
    RefusedOnlyAt s.isDevice [loc] (modifyOp f loc len s) :=
  .of_twice <| (refusedOnlyAt_memRead loc s).andThen fun _ _ => (refusedOnlyAt_memWrite ..).map _

theorem refusedOnlyAt_bitOp (f : Byte → Byte → Byte) (d9 : DataAddr) (b3 : BitVec 3) (s : State) :
    RefusedOnlyAt s.isDevice [d9] (bitOp f d9 b3 s) :=
  .of_twice <| (refusedOnlyAt_memRead d9 s).andThen fun _ _ => (refusedOnlyAt_memWrite ..).map _

theorem refusedOnlyAt_loadOp (loc : DataAddr) (len : Nat) (s : State) :
    RefusedOnlyAt s.isDevice [loc] (loadOp loc len s) := (refusedOnlyAt_memRead loc s).map _

theorem refusedOnlyAt_storeOp (loc : DataAddr) (v : Byte) (len : Nat) (s : State) :
    RefusedOnlyAt s.isDevice [loc] (storeOp loc v len s) := (refusedOnlyAt_memWrite loc v s).map _

theorem refusedOnlyAt_exchangeOp (loc : DataAddr) (len : Nat) (s : State) :
    RefusedOnlyAt s.isDevice [loc] (exchangeOp loc len s) :=
  .of_twice <| (refusedOnlyAt_memRead loc s).andThen fun _ _ => (refusedOnlyAt_memWrite ..).map _

theorem refusedOnlyAt_bitBranchOp (want : Bool) (d9 : DataAddr) (b3 : BitVec 3) (r8 : Byte) (s : State) :
    RefusedOnlyAt s.isDevice [d9] (bitBranchOp want d9 b3 r8 s) := (refusedOnlyAt_memRead d9 s).map _

theorem refusedOnlyAt_decBranchOp (loc : DataAddr) (len : Nat) (r8 : Byte) (s : State) :
    RefusedOnlyAt s.isDevice [loc] (decBranchOp loc len r8 s) :=
  .of_twice <| (refusedOnlyAt_memRead loc s).andThen fun _ _ => (refusedOnlyAt_memWrite ..).map _

/-- bpc makes its second access only where the bit is 1, and never at a device: the first access was there. -/
theorem refusedOnlyAt_execBpc (d9 : DataAddr) (b3 : BitVec 3) (r8 : Byte) (s : State) :
    RefusedOnlyAt s.isDevice [d9] (execBpc d9 b3 r8 s) := by
  refine .of_twice <| (refusedOnlyAt_memRead d9 s).andThen fun x hread => ?_
  obtain ⟨hd, -⟩ := memRead_eq_next.mp hread
  split
  · exact (refusedOnlyAt_memWrite ..).map _
  · exact .next_of_not_device hd _

/-! The stack -/

theorem refusedOnlyAt_push (v : Byte) (s : State) :
    RefusedOnlyAt s.isDevice [stackCell (s.sp + 1)] (push v s) := by
  simp only [push, State.sp_setSp]
  exact refusedOnlyAt_writeVia _ _ v (s.setSp _)

theorem refusedOnlyAt_pop (s : State) : RefusedOnlyAt s.isDevice [stackCell s.sp] (pop s) :=
  (refusedOnlyAt_readVia ..).map _

/-- The second byte goes one above the first, since the first is not written to sp. -/
theorem refusedOnlyAt_pushAddr {s : State} (hs : s.laidOut = true) (a : CodeAddr) :
    RefusedOnlyAt s.isDevice [s.pushCell 1, s.pushCell 2] (pushAddr a s) := by
  refine (refusedOnlyAt_push _ s).andThen (cells' := [s.pushCell 2]) fun t hpush => ?_
  have h := refusedOnlyAt_push (a.extractLsb' 8 8) t
  rwa [State.isDevice_of_runData (runData_of_push hpush), sp_of_push hs hpush, ← State.pushCell_two] at h

theorem refusedOnlyAt_popAddr (s : State) :
    RefusedOnlyAt s.isDevice [stackCell s.sp, stackCell (s.sp - 1)] (popAddr s) := by
  refine (refusedOnlyAt_pop s).andThen (cells' := [stackCell (s.sp - 1)]) fun r hpop => ?_
  have h := (refusedOnlyAt_pop r.2).map fun lo => (r.1 ++ lo.1, lo.2)
  obtain ⟨-, rfl⟩ := pop_eq_next.mp hpop
  rwa [State.sp_setSp] at h

theorem refusedOnlyAt_execPush {d9 : DataAddr} {s : State} (hd9 : d9 ≠ s.params.addrSp) :
    RefusedOnlyAt s.isDevice [d9, s.pushCell 1] (execPush d9 s) := by
  simp only [execPush, hd9, if_false, State.sp_setSp]
  exact (refusedOnlyAt_memRead d9 (s.setSp _)).andThen fun _ _ => (refusedOnlyAt_writeVia ..).map _

theorem refusedOnlyAt_execPop {d9 : DataAddr} {s : State} (hd9 : d9 ≠ s.params.addrSp) :
    RefusedOnlyAt s.isDevice [stackCell s.sp, d9] (execPop d9 s) := by
  rw [execPop, if_neg hd9]
  exact (refusedOnlyAt_readVia ..).andThen fun _ _ => (refusedOnlyAt_memWrite ..).map _

theorem refusedOnlyAt_callOp {s : State} (hs : s.laidOut = true) (target : CodeAddr) (len : Nat) :
    RefusedOnlyAt s.isDevice [s.pushCell 1, s.pushCell 2] (callOp target len s) :=
  (refusedOnlyAt_pushAddr hs _).map _

/-! Every instruction -/

/-- An instruction with a meaning, other than push and pop of the sp cell, is refused at device cells only. -/
theorem refusedOnlyAt_exec {i : Instr} {s : State} (hs : s.laidOut = true) (hpush : i ≠ .push s.params.addrSp)
    (hpop : i ≠ .pop s.params.addrSp) (hldf : i ≠ .ldf) (hstf : i ≠ .stf) :
    RefusedOnlyAt s.isDevice (accessedCells i s) (exec i s) := by
  unfold exec
  cases i with
  | addImm _ | addcImm _ => exact refusedOnlyAt_addOp (.next _) ..
  | addDir _ | addInd _ | addcDir _ | addcInd _ => exact refusedOnlyAt_addOp (refusedOnlyAt_memRead ..) ..
  | subImm _ | subcImm _ => exact refusedOnlyAt_subOp (.next _) ..
  | subDir _ | subInd _ | subcDir _ | subcInd _ => exact refusedOnlyAt_subOp (refusedOnlyAt_memRead ..) ..
  | incDir _ | incInd _ | decDir _ | decInd _ => exact refusedOnlyAt_modifyOp ..
  | andImm _ | orImm _ | xorImm _ => exact refusedOnlyAt_logicOp (.next _) ..
  | andDir _ | andInd _ | orDir _ | orInd _ | xorDir _ | xorInd _ =>
    exact refusedOnlyAt_logicOp (refusedOnlyAt_memRead ..) ..
  | clr1 _ _ | set1 _ _ | not1 _ _ => exact refusedOnlyAt_bitOp ..
  | ldDir _ | ldInd _ => exact refusedOnlyAt_loadOp ..
  | stDir _ | stInd _ | movDir _ _ | movInd _ _ => exact refusedOnlyAt_storeOp ..
  | push d9 => exact refusedOnlyAt_execPush fun hd9 => hpush (congrArg Instr.push hd9)
  | pop d9 => exact refusedOnlyAt_execPop fun hd9 => hpop (congrArg Instr.pop hd9)
  | xchDir _ | xchInd _ => exact refusedOnlyAt_exchangeOp ..
  | bp _ _ _ | bn _ _ _ => exact refusedOnlyAt_bitBranchOp ..
  | bpc _ _ _ => exact refusedOnlyAt_execBpc ..
  | dbnzDir _ _ | dbnzInd _ _ => exact refusedOnlyAt_decBranchOp ..
  | beImm _ _ | bneImm _ _ => exact refusedOnlyAt_compareBranchOp_acc (.next _) ..
  | beDir _ _ | bneDir _ _ => exact refusedOnlyAt_compareBranchOp_acc (refusedOnlyAt_memRead ..) ..
  | beInd _ _ _ | bneInd _ _ _ => exact refusedOnlyAt_compareBranchOp_imm (refusedOnlyAt_memRead ..) ..
  | call _ | callf _ | callr _ => exact refusedOnlyAt_callOp hs ..
  | ret | reti => exact (refusedOnlyAt_popAddr s).map _
  | ldf => exact absurd rfl hldf
  | stf => exact absurd rfl hstf
  | mul | div | rol | rolc | ror | rorc | ldc | jmp _ | jmpf _ | br _ | brf _ | bz _ | bnz _ | nop =>
    exact .next _

end Sys2Proof.Machine

namespace Sys2Proof.Proofs

open Sys2Proof.Machine

/-- Settles O46: the four refusals by name, and every other instruction is refused at device cells only. -/
theorem completesUnlessRefused : Obligations.CompletesUnlessRefused := by
  intro i s hs
  split_ifs with hpush hpop hldf hstf
  · rw [hpush]
    exact execPush_sp s
  · rw [hpop]
    exact execPop_sp s
  · subst hldf
    rfl
  · subst hstf
    rfl
  · have hexec := refusedOnlyAt_exec hs hpush hpop hldf hstf
    split
    · next hfind => exact hexec.refused hfind
    · next hfind => exact hexec.answers hfind

end Sys2Proof.Proofs
end

section
/-! The fields of an instruction in its bytes (R84 to R105): each field is read back from the bytes it is written
to, and byte0 is put together again from its fields. -/

namespace Sys2Proof

theorem toNat_append_eq_add {m n : Nat} (x : BitVec m) (y : BitVec n) :
    (x ++ y).toNat = x.toNat * 2 ^ n + y.toNat := by
  rw [BitVec.toNat_append, ← Nat.shiftLeft_add_eq_or_of_lt y.isLt, Nat.shiftLeft_eq]

theorem append_high_low (m n : Nat) (x : BitVec (m + n)) : x.extractLsb' n m ++ x.extractLsb' 0 n = x :=
  (BitVec.extractLsb'_append_extractLsb'_eq_extractLsb' (Nat.zero_add n).symm).trans BitVec.extractLsb'_eq_self

theorem lowByte_append {n : Nat} (x : BitVec n) (y : Byte) : lowByte (x ++ y) = y :=
  BitVec.extractLsb'_append_eq_right

theorem highByte_append (x y : Byte) : highByte (x ++ y) = x := BitVec.extractLsb'_append_eq_left

/-! Two-byte fields (R103, R105) -/

theorem a16Field_bytes (a16 : CodeAddr) : a16Field (highByte a16) (lowByte a16) = a16 := append_high_low 8 8 a16

theorem r16Field_bytes (r16 : BitVec 16) : r16Field (lowByte r16) (highByte r16) = r16 := append_high_low 8 8 r16

/-! The formats with d9[8] in bit 0 of byte0 -/

theorem dirByte0_toNat (op : BitVec 7) (d9 : DataAddr) :
    (dirByte0 op d9).toNat = op.toNat * 2 + (d9.extractLsb' 8 1).toNat := toNat_append_eq_add ..

theorem d9Direct_dirByte0 (op : BitVec 7) (d9 : DataAddr) : d9Direct (dirByte0 op d9) (lowByte d9) = d9 :=
  calc d9Direct (dirByte0 op d9) (lowByte d9)
    _ = d9.extractLsb' 8 1 ++ lowByte d9 := congrArg (· ++ lowByte d9) BitVec.extractLsb'_append_eq_right
    _ = d9 := append_high_low 1 8 d9

theorem dirByte0_d9Direct {op : BitVec 7} {b0 : Byte} (hop : b0.toNat / 2 = op.toNat) (b1 : Byte) :
    dirByte0 op (d9Direct b0 b1) = b0 := by
  have hbit : (d9Direct b0 b1).extractLsb' 8 1 = b0.extractLsb' 0 1 := BitVec.extractLsb'_append_eq_left
  apply BitVec.eq_of_toNat_eq
  rw [dirByte0_toNat, hbit, BitVec.extractLsb'_toNat, Nat.shiftRight_zero]
  omega

/-! The formats with a register number in bits 1..0 of byte0 -/

theorem indByte0_toNat (op : BitVec 6) (i : BitVec 2) : (indByte0 op i).toNat = op.toNat * 4 + i.toNat :=
  toNat_append_eq_add ..

theorem regField_indByte0 (op : BitVec 6) (i : BitVec 2) : regField (indByte0 op i) = i :=
  BitVec.extractLsb'_append_eq_right

theorem indByte0_regField {op : BitVec 6} {b0 : Byte} (hop : b0.toNat / 4 = op.toNat) :
    indByte0 op (regField b0) = b0 := by
  apply BitVec.eq_of_toNat_eq
  rw [indByte0_toNat, regField, BitVec.extractLsb'_toNat, Nat.shiftRight_zero]
  omega

/-! The formats with a field in bits 4 and 2..0 of byte0, and bit 3 set -/

/-- byte0 of the formats BIT, BIT_REL8 and ABS12: op[2:0], a bit, 1, three bits (R86, R89, R93). -/
def splitByte0 (op : BitVec 3) (x : BitVec 1) (y : BitVec 3) : Byte := op ++ x ++ 1#1 ++ y

theorem bitByte0_eq (op : BitVec 3) (d9 : DataAddr) (b3 : BitVec 3) :
    bitByte0 op d9 b3 = splitByte0 op (d9.extractLsb' 8 1) b3 := rfl

theorem abs12Byte0_eq (op : BitVec 3) (a12 : BitVec 12) :
    abs12Byte0 op a12 = splitByte0 op (a12.extractLsb' 11 1) (a12.extractLsb' 8 3) := rfl

theorem splitByte0_toNat (op : BitVec 3) (x : BitVec 1) (y : BitVec 3) :
    (splitByte0 op x y).toNat = op.toNat * 32 + x.toNat * 16 + 8 + y.toNat := by
  simp only [splitByte0, toNat_append_eq_add, BitVec.toNat_ofNat]
  omega

theorem splitByte0_bit4 (op : BitVec 3) (x : BitVec 1) (y : BitVec 3) :
    (splitByte0 op x y).extractLsb' 4 1 = x := by
  apply BitVec.eq_of_toNat_eq
  rw [BitVec.extractLsb'_toNat, splitByte0_toNat, Nat.shiftRight_eq_div_pow]
  omega

theorem splitByte0_low3 (op : BitVec 3) (x : BitVec 1) (y : BitVec 3) :
    (splitByte0 op x y).extractLsb' 0 3 = y := BitVec.extractLsb'_append_eq_right

theorem splitByte0_fields {op : BitVec 3} {b0 : Byte} (hop : b0.toNat / 32 = op.toNat)
    (hbit3 : b0.toNat % 16 / 8 = 1) : splitByte0 op (b0.extractLsb' 4 1) (b0.extractLsb' 0 3) = b0 := by
  apply BitVec.eq_of_toNat_eq
  rw [splitByte0_toNat, BitVec.extractLsb'_toNat, BitVec.extractLsb'_toNat, Nat.shiftRight_zero,
    Nat.shiftRight_eq_div_pow]
  omega

theorem d9Bit_bitByte0 (op : BitVec 3) (d9 : DataAddr) (b3 : BitVec 3) :
    d9Bit (bitByte0 op d9 b3) (lowByte d9) = d9 :=
  calc d9Bit (bitByte0 op d9 b3) (lowByte d9)
    _ = d9.extractLsb' 8 1 ++ lowByte d9 := congrArg (· ++ lowByte d9) (splitByte0_bit4 ..)
    _ = d9 := append_high_low 1 8 d9

theorem b3Field_bitByte0 (op : BitVec 3) (d9 : DataAddr) (b3 : BitVec 3) : b3Field (bitByte0 op d9 b3) = b3 :=
  splitByte0_low3 ..

theorem bitByte0_fields {op : BitVec 3} {b0 : Byte} (hop : b0.toNat / 32 = op.toNat)
    (hbit3 : b0.toNat % 16 / 8 = 1) (b1 : Byte) : bitByte0 op (d9Bit b0 b1) (b3Field b0) = b0 := by
  have hbit : (d9Bit b0 b1).extractLsb' 8 1 = b0.extractLsb' 4 1 := BitVec.extractLsb'_append_eq_left
  rw [bitByte0_eq, hbit]
  exact splitByte0_fields hop hbit3

theorem a12Field_abs12Byte0 (op : BitVec 3) (a12 : BitVec 12) :
    a12Field (abs12Byte0 op a12) (lowByte a12) = a12 :=
  calc a12Field (abs12Byte0 op a12) (lowByte a12)
    _ = a12.extractLsb' 11 1 ++ a12.extractLsb' 8 3 ++ lowByte a12 :=
      congrArg₂ (fun x y => x ++ y ++ lowByte a12) (splitByte0_bit4 ..) (splitByte0_low3 ..)
    _ = a12.extractLsb' 8 4 ++ lowByte a12 :=
      congrArg (· ++ lowByte a12) (BitVec.extractLsb'_append_extractLsb'_eq_extractLsb' rfl)
    _ = a12 := append_high_low 4 8 a12

theorem a12Field_bit11 (b0 b1 : Byte) : (a12Field b0 b1).extractLsb' 11 1 = b0.extractLsb' 4 1 := by
  apply BitVec.eq_of_toNat_eq
  rw [BitVec.extractLsb'_toNat, a12Field, toNat_append_eq_add, toNat_append_eq_add, Nat.shiftRight_eq_div_pow]
  omega

theorem a12Field_bits10_8 (b0 b1 : Byte) : (a12Field b0 b1).extractLsb' 8 3 = b0.extractLsb' 0 3 := by
  apply BitVec.eq_of_toNat_eq
  rw [BitVec.extractLsb'_toNat, a12Field, toNat_append_eq_add, toNat_append_eq_add, Nat.shiftRight_eq_div_pow]
  omega

theorem abs12Byte0_a12Field {op : BitVec 3} {b0 : Byte} (hop : b0.toNat / 32 = op.toNat)
    (hbit3 : b0.toNat % 16 / 8 = 1) (b1 : Byte) : abs12Byte0 op (a12Field b0 b1) = b0 := by
  rw [abs12Byte0_eq, a12Field_bit11, a12Field_bits10_8]
  exact splitByte0_fields hop hbit3

end Sys2Proof
end

section
/-! The decoder against the encoder (R80 to R110), column by column of the opcode map: the bytes of an instruction
decode to it, and the bytes decoded are those of the instruction. -/

namespace Sys2Proof

/-! The opcode map (R106): the low nibble of byte0 gives the column, the high nibble the row -/

/-- The columns of the opcode map (R106). -/
theorem column_cases (b0 : Byte) :
    b0.toNat % 16 = 0 ∨ b0.toNat % 16 = 1 ∨ b0.toNat % 16 / 2 = 1 ∨ b0.toNat % 16 / 4 = 1 ∨
      b0.toNat % 16 / 8 = 1 := by omega

section
variable {b0 : Byte} (b1 b2 : Byte)

theorem decode3_of_low0 (h : b0.toNat % 16 = 0) : decode3 b0 b1 b2 = decodeLow0 (b0.toNat / 16) b0 b1 b2 :=
  if_pos h

theorem decode3_of_low1 (h : b0.toNat % 16 = 1) : decode3 b0 b1 b2 = decodeLow1 (b0.toNat / 16) b0 b1 b2 :=
  (if_neg (by omega)).trans (if_pos h)

theorem decode3_of_direct (h : b0.toNat % 16 / 2 = 1) :
    decode3 b0 b1 b2 = decodeDirect (b0.toNat / 16) b0 b1 b2 :=
  (if_neg (by omega)).trans <| (if_neg (by omega)).trans <| if_pos (by omega)

theorem decode3_of_indirect (h : b0.toNat % 16 / 4 = 1) :
    decode3 b0 b1 b2 = decodeIndirect (b0.toNat / 16) b0 b1 b2 :=
  (if_neg (by omega)).trans <| (if_neg (by omega)).trans <| (if_neg (by omega)).trans <| if_pos (by omega)

theorem decode3_of_high (h : b0.toNat % 16 / 8 = 1) :
    decode3 b0 b1 b2 = decodeHigh (b0.toNat / 16) b0 b1 b2 :=
  (if_neg (by omega)).trans <| (if_neg (by omega)).trans <| (if_neg (by omega)).trans <| if_neg (by omega)

/-- The columns 0 and 1 hold one form where d9[8] is bit 0 of byte0. -/
theorem decode3_of_low0_low1 {row : Nat} {i : Instr} (h : b0.toNat / 2 = 8 * row)
    (h0 : decodeLow0 row b0 b1 b2 = i) (h1 : decodeLow1 row b0 b1 b2 = i) : decode3 b0 b1 b2 = i := by
  have hrow : b0.toNat / 16 = row := by omega
  obtain hlow | hlow : b0.toNat % 16 = 0 ∨ b0.toNat % 16 = 1 := by omega
  · rw [decode3_of_low0 _ _ hlow, hrow, h0]
  · rw [decode3_of_low1 _ _ hlow, hrow, h1]

theorem decode3_of_push (h : b0.toNat / 2 = 0b0110000) : decode3 b0 b1 b2 = .push (d9Direct b0 b1) :=
  decode3_of_low0_low1 (row := 6) b1 b2 h rfl rfl

theorem decode3_of_pop (h : b0.toNat / 2 = 0b0111000) : decode3 b0 b1 b2 = .pop (d9Direct b0 b1) :=
  decode3_of_low0_low1 (row := 7) b1 b2 h rfl rfl

end

/-- The rows of the columns 8 to F come in pairs, by d9[8] or a12[11]. -/
theorem decodeHigh_pair {n x : Nat} (hn : n < 8) (hx : x < 2) (b0 b1 b2 : Byte) :
    decodeHigh (2 * n + x) b0 b1 b2 = decodeHigh (2 * n) b0 b1 b2 := by
  interval_cases n <;> interval_cases x <;> rfl

/-! byte0 of a format lies in the format's column -/

theorem dirByte0_div (op : BitVec 7) (d9 : DataAddr) : (dirByte0 op d9).toNat / 2 = op.toNat := by
  rw [dirByte0_toNat]
  omega

theorem decode3_dirByte0 {op : BitVec 7} (hop : op.toNat % 8 = 1) (d9 : DataAddr) (b1 b2 : Byte) :
    decode3 (dirByte0 op d9) b1 b2 = decodeDirect (op.toNat / 8) (dirByte0 op d9) b1 b2 := by
  have hdiv := dirByte0_div op d9
  have hrow : (dirByte0 op d9).toNat / 16 = op.toNat / 8 := by omega
  rw [decode3_of_direct _ _ (by omega), hrow]

theorem decode3_indByte0 {op : BitVec 6} (hop : op.toNat % 4 = 1) (i : BitVec 2) (b1 b2 : Byte) :
    decode3 (indByte0 op i) b1 b2 = decodeIndirect (op.toNat / 4) (indByte0 op i) b1 b2 := by
  have hnat := indByte0_toNat op i
  have hrow : (indByte0 op i).toNat / 16 = op.toNat / 4 := by omega
  rw [decode3_of_indirect _ _ (by omega), hrow]

theorem decode3_splitByte0 (op : BitVec 3) (x : BitVec 1) (y : BitVec 3) (b1 b2 : Byte) :
    decode3 (splitByte0 op x y) b1 b2 = decodeHigh (2 * op.toNat) (splitByte0 op x y) b1 b2 := by
  have hnat := splitByte0_toNat op x y
  have hrow : (splitByte0 op x y).toNat / 16 = 2 * op.toNat + x.toNat := by omega
  rw [decode3_of_high _ _ (by omega), hrow, decodeHigh_pair op.isLt x.isLt]

theorem decode3_bitByte0 (op : BitVec 3) (d9 : DataAddr) (b3 : BitVec 3) (b1 b2 : Byte) :
    decode3 (bitByte0 op d9 b3) b1 b2 = decodeHigh (2 * op.toNat) (bitByte0 op d9 b3) b1 b2 :=
  decode3_splitByte0 ..

theorem decode3_abs12Byte0 (op : BitVec 3) (a12 : BitVec 12) (b1 b2 : Byte) :
    decode3 (abs12Byte0 op a12) b1 b2 = decodeHigh (2 * op.toNat) (abs12Byte0 op a12) b1 b2 :=
  decode3_splitByte0 ..

/-- The instruction whose bytes come first is the one decoded (R80 to R107). -/
theorem decode3_eq_of_isPrefix {i : Instr} {b0 b1 b2 : Byte} (h : encode i <+: [b0, b1, b2]) :
    decode3 b0 b1 b2 = i := by
  simp only [encode] at h
  cases i with
  | mul | div | rol | rolc | ror | rorc | ldc | ldf | stf | ret | reti | nop =>
    obtain rfl := by simpa using h
    rfl
  | addImm _ | addcImm _ | subImm _ | subcImm _ | andImm _ | orImm _ | xorImm _ | br _ | bz _ | bnz _ =>
    obtain ⟨rfl, rfl⟩ := by simpa using h
    rfl
  | beImm _ _ | bneImm _ _ =>
    obtain ⟨rfl, rfl, rfl⟩ := by simpa using h
    rfl
  | jmpf a16 | callf a16 =>
    obtain ⟨rfl, rfl, rfl⟩ := by simpa using h
    exact congrArg _ (a16Field_bytes a16)
  | brf r16 | callr r16 =>
    obtain ⟨rfl, rfl, rfl⟩ := by simpa using h
    exact congrArg _ (r16Field_bytes r16)
  | addDir d9 | addcDir d9 | subDir d9 | subcDir d9 | andDir d9 | orDir d9 | xorDir d9 | incDir d9 | decDir d9
  | ldDir d9 | stDir d9 | xchDir d9 =>
    obtain ⟨rfl, rfl⟩ := by simpa using h
    rw [decode3_dirByte0 rfl]
    exact congrArg _ (d9Direct_dirByte0 _ d9)
  | push d9 =>
    obtain ⟨rfl, rfl⟩ := by simpa using h
    rw [decode3_of_push _ _ (dirByte0_div _ d9), d9Direct_dirByte0]
  | pop d9 =>
    obtain ⟨rfl, rfl⟩ := by simpa using h
    rw [decode3_of_pop _ _ (dirByte0_div _ d9), d9Direct_dirByte0]
  | movDir _ d9 | dbnzDir d9 _ | beDir d9 _ | bneDir d9 _ =>
    obtain ⟨rfl, rfl, rfl⟩ := by simpa using h
    rw [decode3_dirByte0 rfl]
    simp [decodeDirect, d9Direct_dirByte0]
  | addInd i | addcInd i | subInd i | subcInd i | andInd i | orInd i | xorInd i | incInd i | decInd i | ldInd i
  | stInd i | xchInd i =>
    obtain rfl := by simpa using h
    rw [decode3_indByte0 rfl]
    exact congrArg _ (regField_indByte0 _ i)
  | movInd _ i | dbnzInd i _ =>
    obtain ⟨rfl, rfl⟩ := by simpa using h
    rw [decode3_indByte0 rfl]
    simp [decodeIndirect, regField_indByte0]
  | beInd i _ _ | bneInd i _ _ =>
    obtain ⟨rfl, rfl, rfl⟩ := by simpa using h
    rw [decode3_indByte0 rfl]
    simp [decodeIndirect, regField_indByte0]
  | clr1 d9 b3 | set1 d9 b3 | not1 d9 b3 =>
    obtain ⟨rfl, rfl⟩ := by simpa using h
    rw [decode3_bitByte0]
    exact congrArg₂ _ (d9Bit_bitByte0 ..) (b3Field_bitByte0 ..)
  | bp d9 b3 _ | bpc d9 b3 _ | bn d9 b3 _ =>
    obtain ⟨rfl, rfl, rfl⟩ := by simpa using h
    rw [decode3_bitByte0]
    simp [decodeHigh, d9Bit_bitByte0, b3Field_bitByte0]
  | jmp a12 | call a12 =>
    obtain ⟨rfl, rfl⟩ := by simpa using h
    rw [decode3_abs12Byte0]
    exact congrArg _ (a12Field_abs12Byte0 _ a12)

/-! The bytes of what stands in each row of a column -/

theorem lowByte_d9Direct (b0 b1 : Byte) : lowByte (d9Direct b0 b1) = b1 := lowByte_append ..

theorem lowByte_d9Bit (b0 b1 : Byte) : lowByte (d9Bit b0 b1) = b1 := lowByte_append ..

theorem lowByte_a12Field (b0 b1 : Byte) : lowByte (a12Field b0 b1) = b1 := lowByte_append ..

theorem bytes_a16Field (b1 b2 : Byte) : [highByte (a16Field b1 b2), lowByte (a16Field b1 b2)] = [b1, b2] := by
  rw [a16Field, lowByte_append, highByte_append]

theorem bytes_r16Field (b1 b2 : Byte) : [lowByte (r16Field b1 b2), highByte (r16Field b1 b2)] = [b1, b2] := by
  rw [r16Field, lowByte_append, highByte_append]

section
variable {row : Nat} (b0 b1 b2 : Byte)

theorem encode_decodeLow0_isPrefix (h : row < 16 ∧ row ≠ 6 ∧ row ≠ 7) :
    encode (decodeLow0 row b0 b1 b2) <+: [BitVec.ofNat 8 (16 * row), b1, b2] := by
  match row, h with
  | 0, _ | 3, _ | 4, _ | 5, _ | 10, _ | 11, _ | 12, _ | 13, _ | 14, _ | 15, _ => exact ⟨[b1, b2], rfl⟩
  | 8, _ | 9, _ => exact ⟨[b2], rfl⟩
  | 1, _ => exact ⟨[], congrArg (List.cons 0x10#8) (bytes_r16Field b1 b2)⟩
  | 2, _ => exact ⟨[], congrArg (List.cons 0x20#8) (bytes_a16Field b1 b2)⟩
  | _ + 16, h => omega

theorem encode_decodeLow1_isPrefix (h : row < 16 ∧ row ≠ 6 ∧ row ≠ 7) :
    encode (decodeLow1 row b0 b1 b2) <+: [BitVec.ofNat 8 (16 * row + 1), b1, b2] := by
  match row, h with
  | 5, _ | 12, _ => exact ⟨[b1, b2], rfl⟩
  | 0, _ | 8, _ | 9, _ | 10, _ | 11, _ | 13, _ | 14, _ | 15, _ => exact ⟨[b2], rfl⟩
  | 3, _ | 4, _ => exact ⟨[], rfl⟩
  | 1, _ => exact ⟨[], congrArg (List.cons 0x11#8) (bytes_r16Field b1 b2)⟩
  | 2, _ => exact ⟨[], congrArg (List.cons 0x21#8) (bytes_a16Field b1 b2)⟩
  | _ + 16, h => omega

theorem encode_decodeDirect_isPrefix (h : row < 16) :
    encode (decodeDirect row b0 b1 b2) <+:
      [dirByte0 (BitVec.ofNat 7 (8 * row + 1)) (d9Direct b0 b1), lowByte (d9Direct b0 b1), b2] := by
  match row, h with
  | 0, _ | 1, _ | 6, _ | 7, _ | 8, _ | 9, _ | 10, _ | 11, _ | 12, _ | 13, _ | 14, _ | 15, _ => exact ⟨[b2], rfl⟩
  | 2, _ | 3, _ | 4, _ | 5, _ => exact ⟨[], rfl⟩
  | _ + 16, h => omega

theorem encode_decodeIndirect_isPrefix (h : row < 16) :
    encode (decodeIndirect row b0 b1 b2) <+: [indByte0 (BitVec.ofNat 6 (4 * row + 1)) (regField b0), b1, b2] := by
  match row, h with
  | 0, _ | 1, _ | 6, _ | 7, _ | 8, _ | 9, _ | 10, _ | 11, _ | 12, _ | 13, _ | 14, _ | 15, _ =>
    exact ⟨[b1, b2], rfl⟩
  | 2, _ | 5, _ => exact ⟨[b2], rfl⟩
  | 3, _ | 4, _ => exact ⟨[], rfl⟩
  | _ + 16, h => omega

/-- In the columns 8 to F the rows 0 to 3 hold the format ABS12. -/
theorem encode_decodeHigh_abs12 {n : Nat} (h : n < 2) :
    encode (decodeHigh (2 * n) b0 b1 b2) =
      [abs12Byte0 (BitVec.ofNat 3 n) (a12Field b0 b1), lowByte (a12Field b0 b1)] := by
  match n, h with
  | 0, _ | 1, _ => rfl

/-- In the columns 8 to F the rows 4 to F hold the formats BIT and BIT_REL8. -/
theorem encode_decodeHigh_bit_isPrefix {n : Nat} (h : 2 ≤ n ∧ n < 8) :
    encode (decodeHigh (2 * n) b0 b1 b2) <+:
      [bitByte0 (BitVec.ofNat 3 n) (d9Bit b0 b1) (b3Field b0), lowByte (d9Bit b0 b1), b2] := by
  match n, h with
  | 5, _ | 6, _ | 7, _ => exact ⟨[b2], rfl⟩
  | 2, _ | 3, _ | 4, _ => exact ⟨[], rfl⟩
  | 0, h | 1, h | _ + 8, h => omega

end

/-! byte0 is put together again -/

section
variable {b0 : Byte} (b1 b2 : Byte)

theorem encode_column0_isPrefix (h : b0.toNat % 16 = 0) (hpush : b0.toNat / 2 ≠ 0b0110000)
    (hpop : b0.toNat / 2 ≠ 0b0111000) : encode (decode3 b0 b1 b2) <+: [b0, b1, b2] := by
  have hbyte : 16 * (b0.toNat / 16) = b0.toNat := by omega
  have hprefix := encode_decodeLow0_isPrefix b0 b1 b2 (row := b0.toNat / 16) (by omega)
  rwa [hbyte, BitVec.ofNat_toNat, BitVec.setWidth_eq, ← decode3_of_low0 _ _ h] at hprefix

theorem encode_column1_isPrefix (h : b0.toNat % 16 = 1) (hpush : b0.toNat / 2 ≠ 0b0110000)
    (hpop : b0.toNat / 2 ≠ 0b0111000) : encode (decode3 b0 b1 b2) <+: [b0, b1, b2] := by
  have hbyte : 16 * (b0.toNat / 16) + 1 = b0.toNat := by omega
  have hprefix := encode_decodeLow1_isPrefix b0 b1 b2 (row := b0.toNat / 16) (by omega)
  rwa [hbyte, BitVec.ofNat_toNat, BitVec.setWidth_eq, ← decode3_of_low1 _ _ h] at hprefix

theorem encode_columnDirect_isPrefix (h : b0.toNat % 16 / 2 = 1) :
    encode (decode3 b0 b1 b2) <+: [b0, b1, b2] := by
  have hop : b0.toNat / 2 = (BitVec.ofNat 7 (8 * (b0.toNat / 16) + 1)).toNat := by
    simp only [BitVec.toNat_ofNat]
    omega
  have hprefix := encode_decodeDirect_isPrefix b0 b1 b2 (row := b0.toNat / 16) (by omega)
  rwa [dirByte0_d9Direct hop, lowByte_d9Direct, ← decode3_of_direct _ _ h] at hprefix

theorem encode_columnIndirect_isPrefix (h : b0.toNat % 16 / 4 = 1) :
    encode (decode3 b0 b1 b2) <+: [b0, b1, b2] := by
  have hop : b0.toNat / 4 = (BitVec.ofNat 6 (4 * (b0.toNat / 16) + 1)).toNat := by
    simp only [BitVec.toNat_ofNat]
    omega
  have hprefix := encode_decodeIndirect_isPrefix b0 b1 b2 (row := b0.toNat / 16) (by omega)
  rwa [indByte0_regField hop, ← decode3_of_indirect _ _ h] at hprefix

theorem encode_columnHigh_isPrefix (h : b0.toNat % 16 / 8 = 1) : encode (decode3 b0 b1 b2) <+: [b0, b1, b2] := by
  have hop : b0.toNat / 32 = (BitVec.ofNat 3 (b0.toNat / 32)).toNat := by
    simp only [BitVec.toNat_ofNat]
    omega
  have hrow : b0.toNat / 16 = 2 * (b0.toNat / 32) + b0.toNat / 16 % 2 := by omega
  rw [decode3_of_high _ _ h, hrow, decodeHigh_pair (by omega) (by omega)]
  by_cases habs : b0.toNat / 32 < 2
  · rw [encode_decodeHigh_abs12 _ _ _ habs, abs12Byte0_a12Field hop h, lowByte_a12Field]
    exact ⟨[b2], rfl⟩
  · have hprefix := encode_decodeHigh_bit_isPrefix b0 b1 b2 (n := b0.toNat / 32) (by omega)
    rwa [bitByte0_fields hop h, lowByte_d9Bit] at hprefix

end

/-- The bytes decoded are those of the instruction, as far as it has them (R109). -/
theorem encode_decode3_isPrefix (b0 b1 b2 : Byte) : encode (decode3 b0 b1 b2) <+: [b0, b1, b2] := by
  by_cases hpush : b0.toNat / 2 = 0b0110000
  · rw [decode3_of_push _ _ hpush, encode, dirByte0_d9Direct hpush, lowByte_d9Direct]
    exact ⟨[b2], rfl⟩
  by_cases hpop : b0.toNat / 2 = 0b0111000
  · rw [decode3_of_pop _ _ hpop, encode, dirByte0_d9Direct hpop, lowByte_d9Direct]
    exact ⟨[b2], rfl⟩
  obtain h | h | h | h | h := column_cases b0
  · exact encode_column0_isPrefix b1 b2 h hpush hpop
  · exact encode_column1_isPrefix b1 b2 h hpush hpop
  · exact encode_columnDirect_isPrefix b1 b2 h
  · exact encode_columnIndirect_isPrefix b1 b2 h
  · exact encode_columnHigh_isPrefix b1 b2 h

/-! byte0 alone selects the form (R80) -/

/-- The instructions are of one form, and so of one length. -/
def SameForm (i j : Instr) : Prop := i.ctorIdx = j.ctorIdx ∧ i.length = j.length

section
variable (row : Nat) (b0 b1 b2 c1 c2 : Byte)

theorem sameForm_decodeLow0 : SameForm (decodeLow0 row b0 b1 b2) (decodeLow0 row b0 c1 c2) := by
  match row with
  | 0 | 1 | 2 | 3 | 4 | 5 | 6 | 7 | 8 | 9 | 10 | 11 | 12 | 13 | 14 | _ + 15 => exact ⟨rfl, rfl⟩

theorem sameForm_decodeLow1 : SameForm (decodeLow1 row b0 b1 b2) (decodeLow1 row b0 c1 c2) := by
  match row with
  | 0 | 1 | 2 | 3 | 4 | 5 | 6 | 7 | 8 | 9 | 10 | 11 | 12 | 13 | 14 | _ + 15 => exact ⟨rfl, rfl⟩

theorem sameForm_decodeDirect : SameForm (decodeDirect row b0 b1 b2) (decodeDirect row b0 c1 c2) := by
  match row with
  | 0 | 1 | 2 | 3 | 4 | 5 | 6 | 7 | 8 | 9 | 10 | 11 | 12 | 13 | 14 | _ + 15 => exact ⟨rfl, rfl⟩

theorem sameForm_decodeIndirect : SameForm (decodeIndirect row b0 b1 b2) (decodeIndirect row b0 c1 c2) := by
  match row with
  | 0 | 1 | 2 | 3 | 4 | 5 | 6 | 7 | 8 | 9 | 10 | 11 | 12 | 13 | 14 | _ + 15 => exact ⟨rfl, rfl⟩

theorem sameForm_decodeHigh : SameForm (decodeHigh row b0 b1 b2) (decodeHigh row b0 c1 c2) := by
  match row with
  | 0 | 1 | 2 | 3 | 4 | 5 | 6 | 7 | 8 | 9 | 10 | 11 | 12 | 13 | 14 | _ + 15 => exact ⟨rfl, rfl⟩

end

theorem sameForm_decode3 (b0 b1 b2 c1 c2 : Byte) : SameForm (decode3 b0 b1 b2) (decode3 b0 c1 c2) := by
  obtain h | h | h | h | h := column_cases b0
  · simpa only [decode3_of_low0 _ _ h] using sameForm_decodeLow0 ..
  · simpa only [decode3_of_low1 _ _ h] using sameForm_decodeLow1 ..
  · simpa only [decode3_of_direct _ _ h] using sameForm_decodeDirect ..
  · simpa only [decode3_of_indirect _ _ h] using sameForm_decodeIndirect ..
  · simpa only [decode3_of_high _ _ h] using sameForm_decodeHigh ..

theorem length_decode3 (b0 b1 b2 : Byte) : (decode3 b0 b1 b2).length = firstByteLength b0 :=
  have ⟨_, hlen⟩ := sameForm_decode3 b0 b1 b2 0 0
  hlen

/-! Byte lists -/

/-- An instruction is the one decoded from three bytes where its own bytes come first. -/
theorem decode3_eq_iff {i : Instr} {b0 b1 b2 : Byte} : decode3 b0 b1 b2 = i ↔ encode i <+: [b0, b1, b2] :=
  ⟨fun h => h ▸ encode_decode3_isPrefix b0 b1 b2, decode3_eq_of_isPrefix⟩

/-- The encoding of every form has a byte0 and at most two bytes after it (R81). -/
theorem encode_shape (i : Instr) : ∃ b0 ops, encode i = b0 :: ops ∧ ops.length ≤ 2 := by
  cases i <;> exact ⟨_, _, rfl, by simp⟩

theorem encode_length_le (i : Instr) : (encode i).length ≤ 3 := by
  obtain ⟨b0, ops, hbytes, hops⟩ := encode_shape i
  rw [hbytes]
  exact Nat.succ_le_succ hops

theorem isPrefix_getD_append {ops : List Byte} (h : ops.length ≤ 2) (rest : List Byte) :
    ops <+: [(ops ++ rest).getD 0 0, (ops ++ rest).getD 1 0] := by
  match ops, h with
  | [], _ => exact ⟨[_, _], rfl⟩
  | [b1], _ => exact ⟨[_], rfl⟩
  | [b1, b2], _ => exact ⟨[], rfl⟩

theorem decode_encode_append (i : Instr) (rest : List Byte) : decode (encode i ++ rest) = .ok (i, rest) := by
  obtain ⟨b0, ops, hbytes, hops⟩ := encode_shape i
  have hi : decode3 b0 ((ops ++ rest).getD 0 0) ((ops ++ rest).getD 1 0) = i := by
    rw [decode3_eq_iff, hbytes]
    exact List.cons_prefix_cons.mpr ⟨rfl, isPrefix_getD_append hops rest⟩
  have hlen : firstByteLength b0 = ops.length + 1 := by
    rw [← length_decode3, hi, Instr.length, hbytes, List.length_cons]
  rw [hbytes, List.cons_append, decode, hi, hlen, if_neg (by simp)]
  simp

end Sys2Proof

namespace Sys2Proof.Proofs

/-- Settles O1: the first bytes are the instruction's, which is what the decoder needs. -/
theorem decodeGivesBackEncoded : Obligations.DecodeGivesBackEncoded := decode_encode_append

/-- Settles O2: the bytes decoded begin with the instruction's, and byte0 alone gives how many those are. -/
theorem encodeGivesBackDecoded : Obligations.EncodeGivesBackDecoded := by
  intro b0 b1 b2
  rw [← length_decode3 b0 b1 b2]
  exact List.prefix_iff_eq_take.mp (encode_decode3_isPrefix b0 b1 b2)

/-- Settles O4: in every column the row alone selects the form. -/
theorem firstByteSelectsForm : Obligations.FirstByteSelectsForm := by
  intro b0 b1 b2 c1 c2
  obtain ⟨hidx, -⟩ := sameForm_decode3 b0 b1 b2 c1 c2
  exact ⟨hidx, length_decode3 b0 b1 b2⟩

/-- Settles O3, a closed fact of the 256 values of a byte. -/
theorem firstByteGivesLength : Obligations.FirstByteGivesLength := by
  unfold Obligations.FirstByteGivesLength
  decide +kernel

end Sys2Proof.Proofs
end

section
/-! The step runs the instruction whose bytes are fetched (R80, R285, R321). -/

namespace Sys2Proof.Machine

/-- Bytes in ROM space at pc that are an instruction's come first among the three that are fetched (R56, R80). -/
theorem encode_isPrefix_of_romRead {s : State} {i : Instr}
    (h : ∀ k, k < i.length → s.romRead (s.pc + BitVec.ofNat 16 k) = (encode i).getD k 0) :
    encode i <+: [s.romRead s.pc, s.romRead (s.pc + 1), s.romRead (s.pc + 2)] := by
  refine List.prefix_iff_getElem.mpr ⟨encode_length_le i, fun k hk => ?_⟩
  have hk3 : k < 3 := lt_of_lt_of_le hk (encode_length_le i)
  rw [← List.getD_eq_getElem _ 0 hk, ← h k hk]
  match k, hk3 with
  | 0, _ => exact congrArg s.romRead (BitVec.add_zero s.pc)
  | 1, _ | 2, _ => rfl

theorem step_of_not_accepted {s : State} (h : s.accepted = none) : step s = exec s.fetch s.afterBoundary := by
  simp only [step, h]

theorem State.afterBoundary_eq (s : State) :
    s.afterBoundary = { s with requests := if s.intHold then s.requests else s.requests.tail } := by
  unfold State.afterBoundary
  split <;> rfl

end Sys2Proof.Machine

namespace Sys2Proof.Proofs

open Sys2Proof.Machine

/-- Settles O42: the bytes fetched begin with the instruction's, so they decode to it. -/
theorem stepRunsInstructionAtPc : Obligations.StepRunsInstructionAtPc := by
  intro s i hbytes hnone
  have hfetch : s.fetch = i := decode3_eq_of_isPrefix (encode_isPrefix_of_romRead hbytes)
  exact ⟨hfetch, hfetch ▸ step_of_not_accepted hnone, s.afterBoundary_eq⟩

end Sys2Proof.Proofs
end

section
/-! The assembler's fields against the targets of the instructions (R102 to R105, R114). -/

namespace Sys2Proof

open Sys2Proof.Machine Sys2Proof.Claims

/-! Fields of code addresses: each is the one that leads from next to the target -/

theorem asmA16_toNat {t : Nat} {a16 : CodeAddr} (h : asmA16 t = some a16) : a16.toNat = t := by
  simp only [asmA16, fitsA16, decide_eq_true_eq, Option.ite_none_right_eq_some, Option.some.injEq] at h
  obtain ⟨hlt, rfl⟩ := h
  rw [BitVec.toNat_ofNat]
  omega

theorem target12_toNat_of_asmA12 {next : CodeAddr} {t : Nat} {a12 : BitVec 12} (h : asmA12 next t = some a12) :
    (target12 next a12).toNat = t := by
  simp only [asmA12, fitsPage, fitsA16, Bool.and_eq_true, decide_eq_true_eq, Option.ite_none_right_eq_some,
    Option.some.injEq] at h
  obtain ⟨⟨hlt, hpage⟩, rfl⟩ := h
  have happend : (target12 next (BitVec.ofNat 12 t)).toNat =
      (next.extractLsb' 12 4).toNat * 2 ^ 12 + (BitVec.ofNat 12 t).toNat := toNat_append_eq_add ..
  rw [happend, BitVec.extractLsb'_toNat, BitVec.toNat_ofNat, Nat.shiftRight_eq_div_pow]
  omega

/-- next plus a number, modulo 65536 (R31). -/
theorem toNat_add_ofInt (next : CodeAddr) (d : Int) :
    ((next + BitVec.ofInt 16 d).toNat : Int) = (next.toNat + d) % 65536 := by
  rw [BitVec.toNat_add, BitVec.toNat_ofInt]
  omega

theorem target8_eq (next : CodeAddr) {d : Int} (hge : -128 ≤ d) (hle : d ≤ 127) :
    target8 next (BitVec.ofInt 8 d) = next + BitVec.ofInt 16 d := by
  rw [target8, BitVec.signExtend, BitVec.toInt_ofInt, Int.bmod_eq_of_le (by omega) (by omega)]

theorem target8_toNat_of_asmR8 {next : CodeAddr} {t : Nat} {r8 : Byte} (h : asmR8 next t = some r8) :
    (target8 next r8).toNat = t := by
  simp only [asmR8, fitsR8, fitsA16, Bool.and_eq_true, decide_eq_true_eq, Option.ite_none_right_eq_some,
    Option.some.injEq] at h
  obtain ⟨⟨⟨hlt, hge⟩, hle⟩, rfl⟩ := h
  have hnat := toNat_add_ofInt next (t - next.toNat)
  rw [target8_eq next hge hle]
  omega

theorem target16_toNat_of_asmR16 {next : CodeAddr} {t : Nat} {r16 : BitVec 16} (h : asmR16 next t = some r16) :
    (target16 next r16).toNat = t := by
  simp only [asmR16, fitsA16, decide_eq_true_eq, Option.ite_none_right_eq_some, Option.some.injEq] at h
  obtain ⟨hlt, rfl⟩ := h
  have hnat := toNat_add_ofInt (next - 1) (t - (next.toNat - 1))
  have hsub : ((next - 1).toNat : Int) = (next.toNat + 65535) % 65536 := by
    rw [BitVec.toNat_sub, show (1 : CodeAddr).toNat = 1 from rfl]
    omega
  rw [target16]
  omega

/-! Lines whose last argument is a target: what the assembler answers -/

section
variable {P : Instr → Prop} {addr : CodeAddr} {args : List Arg} {t : Nat} {i : Instr}

/-- The target at the end of a line is the last argument of its form. -/
theorem target_of_append_eq {last : Nat} {front : List Arg}
    (h : args ++ [.direct t] = front ++ [.direct last]) : last = t := by
  obtain ⟨-, hlast⟩ := List.append_inj' h rfl
  simpa using hlast.symm

theorem of_asmPlain {j : Instr} (h : asmPlain j args = some i) (hj : P j) : P i := by
  unfold asmPlain at h
  split at h
  · exact Option.some.inj h ▸ hj
  · exact nomatch h

theorem of_asmMem {dir : DataAddr → Instr} {ind : BitVec 2 → Instr} (h : asmMem dir ind args = some i)
    (hdir : ∀ d9, P (dir d9)) (hind : ∀ r, P (ind r)) : P i := by
  unfold asmMem at h
  split at h
  · obtain ⟨d9, -, rfl⟩ := Option.map_eq_some_iff.mp h
    exact hdir d9
  · obtain ⟨r, -, rfl⟩ := Option.map_eq_some_iff.mp h
    exact hind r
  · exact nomatch h

theorem of_asmSrc {imm : Byte → Instr} {dir : DataAddr → Instr} {ind : BitVec 2 → Instr}
    (h : asmSrc imm dir ind args = some i) (himm : ∀ i8, P (imm i8)) (hdir : ∀ d9, P (dir d9))
    (hind : ∀ r, P (ind r)) : P i := by
  unfold asmSrc at h
  split at h
  · obtain ⟨i8, -, rfl⟩ := Option.map_eq_some_iff.mp h
    exact himm i8
  · exact of_asmMem h hdir hind

theorem of_asmDir {f : DataAddr → Instr} (h : asmDir f args = some i) (hf : ∀ d9, P (f d9)) : P i := by
  unfold asmDir at h
  split at h
  · obtain ⟨d9, -, rfl⟩ := Option.map_eq_some_iff.mp h
    exact hf d9
  · exact nomatch h

theorem of_asmBit {f : DataAddr → BitVec 3 → Instr} (h : asmBit f args = some i) (hf : ∀ d9 b3, P (f d9 b3)) :
    P i := by
  unfold asmBit at h
  split at h
  · obtain ⟨d9, -, h⟩ := Option.bind_eq_some_iff.mp h
    obtain ⟨b3, -, rfl⟩ := Option.map_eq_some_iff.mp h
    exact hf d9 b3
  · exact nomatch h

theorem of_asmMov (h : asmMov args = some i) (hdir : ∀ i8 d9, P (.movDir i8 d9))
    (hind : ∀ i8 r, P (.movInd i8 r)) : P i := by
  unfold asmMov at h
  split at h
  · obtain ⟨i8, -, h⟩ := Option.bind_eq_some_iff.mp h
    obtain ⟨d9, -, rfl⟩ := Option.map_eq_some_iff.mp h
    exact hdir i8 d9
  · obtain ⟨i8, -, h⟩ := Option.bind_eq_some_iff.mp h
    obtain ⟨r, -, rfl⟩ := Option.map_eq_some_iff.mp h
    exact hind i8 r
  · exact nomatch h

theorem of_asmTarget {α : Type} {field : Nat → Option α} {f : α → Instr}
    (h : asmTarget field f (args ++ [.direct t]) = some i) (hf : ∀ a, field t = some a → P (f a)) : P i := by
  unfold asmTarget at h
  split at h
  · next hargs =>
    obtain rfl := target_of_append_eq (front := []) hargs
    obtain ⟨a, hfield, rfl⟩ := Option.map_eq_some_iff.mp h
    exact hf a hfield
  · exact nomatch h

theorem of_asmBitRel {f : DataAddr → BitVec 3 → Byte → Instr}
    (h : asmBitRel addr f (args ++ [.direct t]) = some i)
    (hf : ∀ d9 b3 r8, asmR8 (addr + 3) t = some r8 → P (f d9 b3 r8)) : P i := by
  unfold asmBitRel at h
  split at h
  · next hargs =>
    obtain rfl := target_of_append_eq (front := [_, _]) hargs
    obtain ⟨d9, -, h⟩ := Option.bind_eq_some_iff.mp h
    obtain ⟨b3, -, h⟩ := Option.bind_eq_some_iff.mp h
    obtain ⟨r8, hr8, rfl⟩ := Option.map_eq_some_iff.mp h
    exact hf d9 b3 r8 hr8
  · exact nomatch h

theorem of_asmDbnz (h : asmDbnz addr (args ++ [.direct t]) = some i)
    (hdir : ∀ d9 r8, asmR8 (addr + 3) t = some r8 → P (.dbnzDir d9 r8))
    (hind : ∀ r r8, asmR8 (addr + 2) t = some r8 → P (.dbnzInd r r8)) : P i := by
  unfold asmDbnz at h
  split at h
  · next hargs =>
    obtain rfl := target_of_append_eq (front := [_]) hargs
    obtain ⟨d9, -, h⟩ := Option.bind_eq_some_iff.mp h
    obtain ⟨r8, hr8, rfl⟩ := Option.map_eq_some_iff.mp h
    exact hdir d9 r8 hr8
  · next hargs =>
    obtain rfl := target_of_append_eq (front := [_]) hargs
    obtain ⟨r, -, h⟩ := Option.bind_eq_some_iff.mp h
    obtain ⟨r8, hr8, rfl⟩ := Option.map_eq_some_iff.mp h
    exact hind r r8 hr8
  · exact nomatch h

theorem of_asmCompare {imm : Byte → Byte → Instr} {dir : DataAddr → Byte → Instr}
    {ind : BitVec 2 → Byte → Byte → Instr} (h : asmCompare addr imm dir ind (args ++ [.direct t]) = some i)
    (himm : ∀ i8 r8, asmR8 (addr + 3) t = some r8 → P (imm i8 r8))
    (hdir : ∀ d9 r8, asmR8 (addr + 3) t = some r8 → P (dir d9 r8))
    (hind : ∀ r i8 r8, asmR8 (addr + 3) t = some r8 → P (ind r i8 r8)) : P i := by
  unfold asmCompare at h
  split at h
  · next hargs =>
    obtain rfl := target_of_append_eq (front := [_]) hargs
    obtain ⟨i8, -, h⟩ := Option.bind_eq_some_iff.mp h
    obtain ⟨r8, hr8, rfl⟩ := Option.map_eq_some_iff.mp h
    exact himm i8 r8 hr8
  · next hargs =>
    obtain rfl := target_of_append_eq (front := [_]) hargs
    obtain ⟨d9, -, h⟩ := Option.bind_eq_some_iff.mp h
    obtain ⟨r8, hr8, rfl⟩ := Option.map_eq_some_iff.mp h
    exact hdir d9 r8 hr8
  · next hargs =>
    obtain rfl := target_of_append_eq (front := [_, _]) hargs
    obtain ⟨r, -, h⟩ := Option.bind_eq_some_iff.mp h
    obtain ⟨i8, -, h⟩ := Option.bind_eq_some_iff.mp h
    obtain ⟨r8, hr8, rfl⟩ := Option.map_eq_some_iff.mp h
    exact hind r i8 r8 hr8
  · exact nomatch h

end

end Sys2Proof

namespace Sys2Proof.Machine

open Sys2Proof.Claims

/-! pc after a branch whose condition holds -/

section
variable {s t : State} {r8 : Byte}

theorem State.pc_branch_of_taken {taken : Bool} (h : taken = true) (len : Nat) (r8 : Byte) :
    (s.branch taken len r8).pc = target8 (s.next len) r8 := if_pos h

theorem pc_of_bitBranchOp {want : Bool} {d9 : DataAddr} {b3 : BitVec 3} (hs : s.laidOut = true)
    (h : bitBranchOp want d9 b3 r8 s = .next t) (hbit : (s.cell d9).getLsbD b3.toNat = want) :
    t.pc = target8 (s.next 3) r8 := by
  obtain ⟨-, rfl⟩ := bitBranchOp_eq_next.mp h
  rw [State.view_flat (State.bankMap_of_laidOut hs), hbit, beq_self_eq_true, State.pc_branch_of_taken rfl]

theorem pc_of_execBpc {d9 : DataAddr} {b3 : BitVec 3} (hs : s.laidOut = true)
    (h : execBpc d9 b3 r8 s = .next t) (hbit : (s.cell d9).getLsbD b3.toNat = true) :
    t.pc = target8 (s.next 3) r8 := by
  obtain ⟨-, rfl⟩ := execBpc_eq_next.mp h
  rw [State.view_flat (State.bankMap_of_laidOut hs), if_pos hbit]
  rfl

theorem pc_of_decBranchOp {loc : DataAddr} {len : Nat} (hs : s.laidOut = true)
    (h : decBranchOp loc len r8 s = .next t) (hne : s.cell loc ≠ 1) : t.pc = target8 (s.next len) r8 := by
  obtain ⟨-, rfl⟩ := decBranchOp_eq_next.mp h
  have htaken : s.cell loc - 1 ≠ 0 := sub_ne_zero.mpr hne
  rw [State.view_flat (State.bankMap_of_laidOut hs), State.pc_branch_of_taken (decide_eq_true htaken)]
  rfl

/-- Where the operation answers, it answers x. -/
def AnswersOnly (r : Host.Outcome Byte Fault Refusal) (x : Byte) : Prop := ∀ v, r = .next v → v = x

theorem AnswersOnly.next (x : Byte) : AnswersOnly (.next x) x := fun _ h => (Host.Outcome.next.inj h).symm

theorem AnswersOnly.memRead (hs : s.laidOut = true) (a : DataAddr) :
    AnswersOnly (Machine.memRead a s) (s.cell a) := fun v h => by
  obtain ⟨-, rfl⟩ := memRead_eq_next.mp h
  exact State.view_flat (State.bankMap_of_laidOut hs) ..

theorem pc_of_compareBranchOp {want : Bool} {left right : Host.Outcome Byte Fault Refusal} {x y : Byte}
    (hleft : AnswersOnly left x) (hright : AnswersOnly right y)
    (h : compareBranchOp want left right r8 s = .next t) (hcond : decide (x = y) = want) :
    t.pc = target8 (s.next 3) r8 := by
  obtain ⟨a, v, ha, hv, rfl⟩ := compareBranchOp_eq_next.mp h
  rw [hleft a ha, hright v hv, hcond, beq_self_eq_true, State.pc_branch_of_taken rfl]
  rfl

theorem pc_of_callOp {target : CodeAddr} {len : Nat} (h : callOp target len s = .next t) : t.pc = target := by
  obtain ⟨s1, -, rfl⟩ := callOp_eq_next.mp h
  rfl

end

/-! Every instruction -/

/-- The code address that an instruction's last operand designates (R102 to R105), for an instruction with one. -/
def codeTarget (i : Instr) (s : State) : Option CodeAddr :=
  match i with
  | .jmp a12 | .call a12 => some (target12 (s.next 2) a12)
  | .jmpf a16 | .callf a16 => some a16
  | .brf r16 | .callr r16 => some (target16 (s.next 3) r16)
  | .br r8 | .bz r8 | .bnz r8 | .dbnzInd _ r8 => some (target8 (s.next 2) r8)
  | .bp _ _ r8 | .bpc _ _ r8 | .bn _ _ r8 | .dbnzDir _ r8 | .beImm _ r8 | .beDir _ r8 | .beInd _ _ r8
  | .bneImm _ r8 | .bneDir _ r8 | .bneInd _ _ r8 => some (target8 (s.next 3) r8)
  | _ => none

/-- A jump, a call, or a branch whose condition holds goes to the address of its last operand. -/
theorem some_pc_of_exec {i : Instr} {s t : State} (hs : s.laidOut = true) (hgoes : GoesToTarget s i)
    (h : exec i s = .next t) : some t.pc = codeTarget i s := by
  unfold exec at h
  cases i with
  | jmp _ | jmpf _ | br _ | brf _ =>
    obtain rfl := Host.Outcome.next.inj h
    rfl
  | call _ | callf _ | callr _ => exact congrArg some (pc_of_callOp h)
  | bz _ =>
    obtain rfl := Host.Outcome.next.inj h
    exact congrArg some (State.pc_branch_of_taken (decide_eq_true (p := s.acc = 0) hgoes) ..)
  | bnz _ =>
    obtain rfl := Host.Outcome.next.inj h
    exact congrArg some (State.pc_branch_of_taken (decide_eq_true (p := s.acc ≠ 0) hgoes) ..)
  | bp _ _ _ | bn _ _ _ => exact congrArg some (pc_of_bitBranchOp hs h hgoes)
  | bpc _ _ _ => exact congrArg some (pc_of_execBpc hs h hgoes)
  | dbnzDir _ _ | dbnzInd _ _ => exact congrArg some (pc_of_decBranchOp hs h hgoes)
  | beImm _ _ => exact congrArg some (pc_of_compareBranchOp (.next _) (.next _) h (decide_eq_true hgoes))
  | beDir _ _ => exact congrArg some (pc_of_compareBranchOp (.next _) (.memRead hs _) h (decide_eq_true hgoes))
  | beInd _ _ _ => exact congrArg some (pc_of_compareBranchOp (.memRead hs _) (.next _) h (decide_eq_true hgoes))
  | bneImm _ _ => exact congrArg some (pc_of_compareBranchOp (.next _) (.next _) h (decide_eq_false hgoes))
  | bneDir _ _ => exact congrArg some (pc_of_compareBranchOp (.next _) (.memRead hs _) h (decide_eq_false hgoes))
  | bneInd _ _ _ => exact congrArg some (pc_of_compareBranchOp (.memRead hs _) (.next _) h (decide_eq_false hgoes))
  | _ => exact hgoes.elim

/-- An instruction with a code address is none of ldf, stf, push and pop, so only a device cell refuses it
(R282). -/
theorem exec_answers_of_goesToTarget {i : Instr} {s : State} (hs : s.laidOut = true) (hgoes : GoesToTarget s i)
    (hdev : ∀ a ∈ accessedCells i s, s.isDevice a = false) : ∃ t, exec i s = .next t := by
  have hfind : (accessedCells i s).find? s.isDevice = none := by simpa using hdev
  refine (refusedOnlyAt_exec hs ?_ ?_ ?_ ?_).answers hfind <;> rintro rfl <;> exact hgoes

/-- If the instruction has a code address, it designates this target. -/
def Targets (s : State) (target : Nat) (i : Instr) : Prop := ∀ a, codeTarget i s = some a → a.toNat = target

theorem Targets.of_eq {s : State} {target : Nat} {i : Instr} {a : CodeAddr} (h : codeTarget i s = some a)
    (ha : a.toNat = target) : Targets s target i :=
  fun b hb => by rw [← ha, Option.some.inj (h.symm.trans hb)]

theorem Targets.of_asmR8 {s : State} {target : Nat} {i : Instr} {next : CodeAddr} {r8 : Byte}
    (h : codeTarget i s = some (target8 next r8)) (hfield : asmR8 next target = some r8) : Targets s target i :=
  .of_eq h (target8_toNat_of_asmR8 hfield)

/-- The assembler computes the field from the last argument, by the form that the mnemonic selects (R114). -/
theorem targets_of_assemble {s : State} {m : Mnemonic} {args : List Arg} {target : Nat} {i : Instr}
    (h : assemble s.pc m (args ++ [.direct target]) = some i) : Targets s target i := by
  unfold assemble at h
  cases m with
  | add | addc | sub | subc | and | or | xor =>
    exact of_asmSrc h (fun _ => nofun) (fun _ => nofun) (fun _ => nofun)
  | inc | dec | ld | st | xch => exact of_asmMem h (fun _ => nofun) (fun _ => nofun)
  | mul | div | rol | rolc | ror | rorc | ldc | ldf | stf | ret | reti | nop => exact of_asmPlain h nofun
  | clr1 | set1 | not1 => exact of_asmBit h (fun _ _ => nofun)
  | mov => exact of_asmMov h (fun _ _ => nofun) (fun _ _ => nofun)
  | push | pop => exact of_asmDir h (fun _ => nofun)
  | jmp | call => exact of_asmTarget h fun _ hfield => .of_eq rfl (target12_toNat_of_asmA12 hfield)
  | jmpf | callf => exact of_asmTarget h fun _ hfield => .of_eq rfl (asmA16_toNat hfield)
  | brf | callr => exact of_asmTarget h fun _ hfield => .of_eq rfl (target16_toNat_of_asmR16 hfield)
  | br | bz | bnz => exact of_asmTarget h fun _ => .of_asmR8 rfl
  | bp | bpc | bn => exact of_asmBitRel h fun _ _ _ => .of_asmR8 rfl
  | dbnz => exact of_asmDbnz h (fun _ _ => .of_asmR8 rfl) (fun _ _ => .of_asmR8 rfl)
  | be | bne =>
    exact of_asmCompare h (fun _ _ => .of_asmR8 rfl) (fun _ _ => .of_asmR8 rfl) (fun _ _ _ => .of_asmR8 rfl)

end Sys2Proof.Machine

namespace Sys2Proof.Proofs

open Sys2Proof.Machine Sys2Proof.Claims

/-- Settles O56: the address the field designates is the target, and the instruction goes to that address. -/
theorem assembledTargetIsReached : Obligations.AssembledTargetIsReached := by
  intro s m args target i hasm hgoes hs hdev
  obtain ⟨t, hexec⟩ := exec_answers_of_goesToTarget hs hgoes hdev
  exact ⟨t, hexec, targets_of_assemble hasm _ (some_pc_of_exec hs hgoes hexec).symm⟩

end Sys2Proof.Proofs
end

section
/-! The bytes and flags that the arithmetic family computes, as numbers (R120 to R128). -/

namespace Sys2Proof.Machine

open Sys2Proof.Claims

/-! add, addc, sub, subc: the result modulo 256 and the exact signed overflow (R128, D5) -/

section
variable (a v : Byte) (k : Bool)

theorem addResult_toNat : (addResult a v k).toNat = (a.toNat + v.toNat + k.toNat) % 256 :=
  BitVec.toNat_ofNat ..

theorem subResult_toNat : ((subResult a v k).toNat : Int) = ((a.toNat : Int) - v.toNat - k.toNat) % 256 := by
  rw [subResult, BitVec.toNat_ofInt]
  omega

/-- A byte's signed and unsigned readings agree modulo 256. -/
theorem toInt_emod_byte (x : Byte) : x.toInt % 256 = x.toNat % 256 := by
  rw [BitVec.toInt_eq_toNat_bmod]
  exact Int.bmod_emod ..

theorem toInt_byte_bounds (x : Byte) : -128 ≤ x.toInt ∧ x.toInt < 128 := ⟨BitVec.le_toInt x, BitVec.toInt_lt⟩

theorem addResult_toInt_emod : (addResult a v k).toInt % 256 = (a.toInt + v.toInt + k.toNat) % 256 := by
  have hresult := addResult_toNat a v k
  have ha := toInt_emod_byte a
  have hv := toInt_emod_byte v
  rw [toInt_emod_byte]
  omega

theorem subResult_toInt_emod : (subResult a v k).toInt % 256 = (a.toInt - v.toInt - k.toNat) % 256 := by
  have hresult := subResult_toNat a v k
  have ha := toInt_emod_byte a
  have hv := toInt_emod_byte v
  rw [toInt_emod_byte]
  omega

/-- A sum or difference lies outside -128..+127 exactly where its byte has the wrong sign (R128). -/
theorem signedOverflow_eq {x : Int} {r : Byte} (hlo : -256 ≤ x) (hhi : x < 256)
    (hr : r.toInt % 256 = x % 256) : SignedOverflow x = (r.msb != decide (x < 0)) := by
  have hbounds := toInt_byte_bounds r
  rw [SignedOverflow, BitVec.msb_eq_toInt, Bool.eq_iff_iff, bne_iff_ne, ne_eq, decide_eq_decide,
    decide_eq_true_eq]
  omega

/-- A sum of two signs fits; one of one sign has that sign, and it is the result's where it fits (R120, R121). -/
theorem addFlags_ov : (addFlags a v k).ov = SignedOverflow (a.toInt + v.toInt + k.toNat) := by
  have ha := toInt_byte_bounds a
  have hv := toInt_byte_bounds v
  have hk := Bool.toNat_le k
  by_cases hsign : a.toInt < 0 ↔ v.toInt < 0
  · have hexact : a.toInt + v.toInt + k.toNat < 0 ↔ a.toInt < 0 := by omega
    rw [signedOverflow_eq (by omega) (by omega) (addResult_toInt_emod a v k)]
    simp [addFlags, BitVec.msb_eq_toInt, hsign, hexact]
  · have hfits : SignedOverflow (a.toInt + v.toInt + k.toNat) = false := decide_eq_false (by omega)
    simp [addFlags, BitVec.msb_eq_toInt, hsign, hfits]

/-- A difference of one sign fits; one of two signs has the first one, and it is the result's where it fits
(R122, R123). -/
theorem subFlags_ov : (subFlags a v k).ov = SignedOverflow (a.toInt - v.toInt - k.toNat) := by
  have ha := toInt_byte_bounds a
  have hv := toInt_byte_bounds v
  have hk := Bool.toNat_le k
  by_cases hsign : a.toInt < 0 ↔ v.toInt < 0
  · have hfits : SignedOverflow (a.toInt - v.toInt - k.toNat) = false := decide_eq_false (by omega)
    simp [subFlags, BitVec.msb_eq_toInt, hsign, hfits]
  · have hexact : a.toInt - v.toInt - k.toNat < 0 ↔ a.toInt < 0 := by omega
    rw [signedOverflow_eq (by omega) (by omega) (subResult_toInt_emod a v k)]
    simp [subFlags, BitVec.msb_eq_toInt, hsign, hexact]

theorem addFlags_cy : (addFlags a v k).cy = decide (255 < a.toNat + v.toNat + k.toNat) := rfl

theorem addFlags_ac : (addFlags a v k).ac = decide (15 < a.toNat % 16 + v.toNat % 16 + k.toNat) := rfl

/-- A borrow is an unsigned comparison. -/
theorem subFlags_cy : (subFlags a v k).cy = decide (a.toNat < v.toNat + k.toNat) := by
  rw [subFlags, decide_eq_decide]
  omega

theorem subFlags_ac : (subFlags a v k).ac = decide (a.toNat % 16 < v.toNat % 16 + k.toNat) := by
  rw [subFlags, lowNibble, lowNibble, decide_eq_decide]
  omega

end

/-! mul and div: a number in the bytes of registers, most significant first -/

theorem toNat_two_bytes {n : Nat} (h : n < 2 ^ 16) :
    (BitVec.ofNat 8 (n / 256) ++ BitVec.ofNat 8 n).toNat = n := by
  rw [toNat_append_eq_add, BitVec.toNat_ofNat, BitVec.toNat_ofNat]
  omega

theorem toNat_three_bytes {n : Nat} (h : n < 2 ^ 24) :
    (BitVec.ofNat 8 (n / 65536) ++ BitVec.ofNat 8 (n / 256) ++ BitVec.ofNat 8 n).toNat = n := by
  rw [toNat_append_eq_add, toNat_append_eq_add, BitVec.toNat_ofNat, BitVec.toNat_ofNat, BitVec.toNat_ofNat]
  omega

theorem State.accC_lt (s : State) : s.accC < 2 ^ 16 := (s.acc ++ s.c).isLt

/-- 16 bits times 8 bits are 24 bits (R126). -/
theorem State.accC_mul_b_lt (s : State) : s.accC * s.b.toNat < 2 ^ 24 :=
  Nat.mul_lt_mul'' (c := 2 ^ 16) (d := 2 ^ 8) s.accC_lt s.b.isLt

theorem State.b_toNat_pos {s : State} (h : s.b ≠ 0) : 0 < s.b.toNat :=
  Nat.pos_of_ne_zero fun hzero => h (BitVec.eq_of_toNat_eq hzero)

end Sys2Proof.Machine
end

section
/-! The operand forms of the arithmetic family: what a form answers in terms of its mnemonic's operation. -/

namespace Sys2Proof.Claims

open Sys2Proof.Machine

/-- A form of a mnemonic with a source operand runs the mnemonic's operation on the operand's value (R73). -/
theorem SrcForm.exec_eq {imm : Byte → Instr} {dir : DataAddr → Instr} {ind : BitVec 2 → Instr} {s : State}
    {i : Instr} {v : Byte} (h : SrcForm imm dir ind s i v) (hs : s.laidOut = true)
    {op : Host.Outcome Byte Fault Refusal → Nat → Host.Outcome State Fault Refusal}
    (himm : ∀ i8, exec (imm i8) s = op (srcImm i8) (imm i8).length)
    (hdir : ∀ d9, exec (dir d9) s = op (srcDir d9 s) (dir d9).length)
    (hind : ∀ r, exec (ind r) s = op (srcInd r s) (ind r).length) : exec i s = op (.next v) i.length := by
  obtain rfl | ⟨d9, rfl, hd, rfl⟩ | ⟨r, rfl, hd, rfl⟩ := h
  · exact himm v
  · rw [hdir, srcDir, memRead_of_laidOut hs hd]
  · rw [hind, srcInd, memRead_of_laidOut hs hd]

/-- A form of a mnemonic with a cell operand runs the mnemonic's operation at that cell (R74). -/
theorem LocForm.exec_eq {dir : DataAddr → Instr} {ind : BitVec 2 → Instr} {s : State} {i : Instr} {a : DataAddr}
    (h : LocForm dir ind s i a) {op : DataAddr → Nat → Host.Outcome State Fault Refusal}
    (hdir : ∀ d9, exec (dir d9) s = op (locDir d9) (dir d9).length)
    (hind : ∀ r, exec (ind r) s = op (locInd r s) (ind r).length) : exec i s = op a i.length := by
  obtain ⟨-, rfl | ⟨r, rfl, rfl⟩⟩ := h
  · exact hdir a
  · exact hind r

theorem LocForm.not_device {dir : DataAddr → Instr} {ind : BitVec 2 → Instr} {s : State} {i : Instr}
    {a : DataAddr} (h : LocForm dir ind s i a) : s.isDevice a = false := h.1

end Sys2Proof.Claims

namespace Sys2Proof.Machine

open Sys2Proof.Claims

section
variable {s : State} {i : Instr} {v : Byte} {k : Bool}

/-- add adds nothing more, addc cy (R120, R121). -/
theorem exec_eq_addOp (hs : s.laidOut = true)
    (h : (SrcForm .addImm .addDir .addInd s i v ∧ k = false) ∨
      (SrcForm .addcImm .addcDir .addcInd s i v ∧ k = s.cy)) : exec i s = addOp k (.next v) i.length s := by
  obtain ⟨hform, rfl⟩ | ⟨hform, rfl⟩ := h
  · exact hform.exec_eq hs (op := fun src len => addOp false src len s) (fun _ => rfl) (fun _ => rfl) fun _ => rfl
  · exact hform.exec_eq hs (op := fun src len => addOp s.cy src len s) (fun _ => rfl) (fun _ => rfl) fun _ => rfl

/-- sub takes off nothing more, subc cy (R122, R123). -/
theorem exec_eq_subOp (hs : s.laidOut = true)
    (h : (SrcForm .subImm .subDir .subInd s i v ∧ k = false) ∨
      (SrcForm .subcImm .subcDir .subcInd s i v ∧ k = s.cy)) : exec i s = subOp k (.next v) i.length s := by
  obtain ⟨hform, rfl⟩ | ⟨hform, rfl⟩ := h
  · exact hform.exec_eq hs (op := fun src len => subOp false src len s) (fun _ => rfl) (fun _ => rfl) fun _ => rfl
  · exact hform.exec_eq hs (op := fun src len => subOp s.cy src len s) (fun _ => rfl) (fun _ => rfl) fun _ => rfl

end

/-- A write of the flags does not reach acc. -/
theorem State.acc_setAcc_setFlags {s : State} (hs : s.laidOut = true) (x : Byte) (f : Flags) :
    ((s.setAcc x).setFlags f).acc = x := by
  obtain ⟨⟨haccPsw, -⟩, -⟩ := State.registers_ne_of_laidOut hs
  simp [State.acc_eq, State.cell_setFlags, State.cell_setAcc, haccPsw]

end Sys2Proof.Machine

namespace Sys2Proof.Proofs

open Sys2Proof.Machine Sys2Proof.Claims

/-- Settles O11: each form is the one operation on its operand's value, whose result and flags are the spec's. -/
theorem addAndAddc : Obligations.AddAndAddc := by
  intro s i v k hs hform
  have h : addOp k (.next v) i.length s =
      .next (((s.setAcc (addResult s.acc v k)).setFlags (addFlags s.acc v k)).advance i.length) := rfl
  obtain ⟨hcy, hac, hov⟩ := State.flags_setFlags (s := s.setAcc (addResult s.acc v k)) hs (addFlags s.acc v k)
  refine ⟨_, (exec_eq_addOp hs hform).trans h, ?_, hcy.trans (addFlags_cy ..), hac.trans (addFlags_ac ..),
    hov.trans (addFlags_ov ..), pswKeeps_of_addOp hs h (by simp) (by simp) (by simp), .advance rfl rfl,
    keeps_of_addOp h⟩
  rw [← addResult_toNat]
  exact congrArg BitVec.toNat (State.acc_setAcc_setFlags hs _ _)

/-- Settles O12, as O11: a borrow is a comparison, and the overflow that of the exact difference. -/
theorem subAndSubc : Obligations.SubAndSubc := by
  intro s i v k hs hform
  have h : subOp k (.next v) i.length s =
      .next (((s.setAcc (subResult s.acc v k)).setFlags (subFlags s.acc v k)).advance i.length) := rfl
  obtain ⟨hcy, hac, hov⟩ := State.flags_setFlags (s := s.setAcc (subResult s.acc v k)) hs (subFlags s.acc v k)
  refine ⟨_, (exec_eq_subOp hs hform).trans h, ?_, hcy.trans (subFlags_cy ..), hac.trans (subFlags_ac ..),
    hov.trans (subFlags_ov ..), pswKeeps_of_subOp hs h (by simp) (by simp) (by simp), .advance rfl rfl,
    keeps_of_subOp h⟩
  rw [← subResult_toNat]
  exact congrArg _ (congrArg BitVec.toNat (State.acc_setAcc_setFlags hs _ _))

end Sys2Proof.Proofs
end

section
/-! inc and dec (R124, R125). -/

namespace Sys2Proof.Machine

open Sys2Proof.Claims

/-- On a flat data space a cell is read and written back at its own address. -/
theorem modifyOp_of_laidOut {s : State} (hs : s.laidOut = true) {a : DataAddr} (hd : s.isDevice a = false)
    (f : Byte → Byte) (len : Nat) :
    modifyOp f a len s = .next ((s.setCell a (f (s.cell a))).advance len) := by
  have hflat := State.bankMap_of_laidOut hs
  rw [← State.view_flat hflat .read, ← State.store_flat hflat .write]
  exact modifyOp_eq_next.mpr ⟨hd, rfl⟩

/-- A mnemonic whose forms modify their operand's cell modifies that cell and no other. -/
theorem exec_of_modifyOp {dir : DataAddr → Instr} {ind : BitVec 2 → Instr} {s : State} {i : Instr} {a : DataAddr}
    (f : Byte → Byte) (hs : s.laidOut = true) (hform : LocForm dir ind s i a)
    (hdir : ∀ d9, exec (dir d9) s = modifyOp f (locDir d9) (dir d9).length s)
    (hind : ∀ r, exec (ind r) s = modifyOp f (locInd r s) (ind r).length s) :
    ∃ t, exec i s = .next t ∧ t.cell a = f (s.cell a) ∧ PcAdvances i s t ∧ Keeps [a] s t := by
  have hexec : exec i s = modifyOp f a i.length s :=
    hform.exec_eq (op := fun loc len => modifyOp f loc len s) hdir hind
  have h := modifyOp_of_laidOut hs hform.not_device f i.length
  exact ⟨_, hexec.trans h, State.cell_setCell_self .., .advance rfl rfl, keeps_of_modifyOp hs h⟩

end Sys2Proof.Machine

namespace Sys2Proof.Proofs

open Sys2Proof.Machine Sys2Proof.Claims

/-- Settles O13: inc and dec modify their operand's cell, by one up or down in a byte. -/
theorem incAndDec : Obligations.IncAndDec := by
  intro s i a hs
  refine ⟨fun hform => ?_, fun hform => ?_⟩
  · obtain ⟨t, h, hcell, hframe⟩ := exec_of_modifyOp (· + 1) hs hform (fun _ => rfl) fun _ => rfl
    exact ⟨t, h, by simp [hcell, BitVec.toNat_add], hframe⟩
  · obtain ⟨t, h, hcell, hframe⟩ := exec_of_modifyOp (· - 1) hs hform (fun _ => rfl) fun _ => rfl
    exact ⟨t, h, by simp [hcell, BitVec.toNat_sub, Nat.add_comm], hframe⟩

end Sys2Proof.Proofs
end

section
/-! mul (R126) and div by a divisor that is not zero (R127). -/

namespace Sys2Proof.Machine

open Sys2Proof.Claims

/-- ac is neither of the bits that mul and div write. -/
theorem State.bitAc_not_mem_cy_ov {s : State} (hs : s.laidOut = true) :
    s.params.bitAc.toNat ∉ [s.params.bitCy.toNat, s.params.bitOv.toNat] := by
  obtain ⟨hcyAc, -, hacOv⟩ := State.flagBits_ne_of_laidOut hs
  simp [hcyAc.symm, hacOv]

/-! mul -/

/-- The effect of mul but for pc: the product to b : acc : c, cy and ov. -/
def multiply (s : State) : State :=
  let p := s.accC * s.b.toNat
  ((((s.setB (BitVec.ofNat 8 (p / 65536))).setAcc (BitVec.ofNat 8 (p / 256))).setC (BitVec.ofNat 8 p)).setCy
    false).setOv (mulOv p)

theorem exec_mul (s : State) : exec .mul s = .next ((multiply s).advance 1) := rfl

/-- The three registers are three cells, none of them psw's. -/
theorem multiply_registers {s : State} (hs : s.laidOut = true) :
    (multiply s).b = BitVec.ofNat 8 (s.accC * s.b.toNat / 65536) ∧
      (multiply s).acc = BitVec.ofNat 8 (s.accC * s.b.toNat / 256) ∧
      (multiply s).c = BitVec.ofNat 8 (s.accC * s.b.toNat) := by
  obtain ⟨⟨hap, hab, hac, -⟩, ⟨hpb, hpc, -⟩, ⟨hbc, -⟩, -⟩ := State.registers_ne_of_laidOut hs
  refine ⟨?_, ?_, ?_⟩
  · simp [multiply, State.b_eq, State.cell_setOv, State.cell_setCy, State.cell_setC, State.cell_setAcc,
      State.cell_setB, hpb.symm, hbc, hab.symm]
  · simp [multiply, State.acc_eq, State.cell_setOv, State.cell_setCy, State.cell_setC, State.cell_setAcc, hap, hac]
  · simp [multiply, State.c_eq, State.cell_setOv, State.cell_setCy, State.cell_setC, hpc.symm]

/-- The product loses no bit in the three registers. -/
theorem multiply_product {s : State} (hs : s.laidOut = true) :
    ((multiply s).b ++ (multiply s).acc ++ (multiply s).c).toNat = s.accC * s.b.toNat := by
  obtain ⟨hb, hacc, hc⟩ := multiply_registers hs
  rw [hb, hacc, hc, toNat_three_bytes s.accC_mul_b_lt]

theorem multiply_cy {s : State} (hs : s.laidOut = true) : (multiply s).cy = false :=
  (State.cy_setOv (by exact hs) _).trans (State.cy_setCy ..)

theorem multiply_ov (s : State) : (multiply s).ov = decide (0xFFFF < s.accC * s.b.toNat) := State.ov_setOv ..

/-! div -/

/-- The three registers are three cells, none of them psw's. -/
theorem divide_registers {s : State} (hs : s.laidOut = true) :
    (divide s).acc = BitVec.ofNat 8 (s.accC / s.b.toNat / 256) ∧
      (divide s).c = BitVec.ofNat 8 (s.accC / s.b.toNat) ∧
      (divide s).b = BitVec.ofNat 8 (s.accC % s.b.toNat) := by
  obtain ⟨⟨hap, hab, hac, -⟩, ⟨hpb, hpc, -⟩, ⟨hbc, -⟩, -⟩ := State.registers_ne_of_laidOut hs
  refine ⟨?_, ?_, ?_⟩
  · simp [divide, State.acc_eq, State.cell_setOv, State.cell_setCy, State.cell_setB, State.cell_setC,
      State.cell_setAcc, hap, hab, hac]
  · simp [divide, State.c_eq, State.cell_setOv, State.cell_setCy, State.cell_setB, State.cell_setC, hpc.symm,
      hbc.symm]
  · simp [divide, State.b_eq, State.cell_setOv, State.cell_setCy, State.cell_setB, hpb.symm]

/-- The quotient of a 16-bit number has 16 bits. -/
theorem divide_quotient {s : State} (hs : s.laidOut = true) :
    ((divide s).acc ++ (divide s).c).toNat = s.accC / s.b.toNat := by
  obtain ⟨hacc, hc, -⟩ := divide_registers hs
  rw [hacc, hc, toNat_two_bytes (lt_of_le_of_lt (Nat.div_le_self ..) s.accC_lt)]

/-- The remainder, being less than the divisor, has 8 bits. -/
theorem divide_remainder {s : State} (hs : s.laidOut = true) (hb : s.b ≠ 0) :
    (divide s).b.toNat = s.accC % s.b.toNat := by
  obtain ⟨-, -, hrem⟩ := divide_registers hs
  have hlt := Nat.mod_lt s.accC (State.b_toNat_pos hb)
  rw [hrem, BitVec.toNat_ofNat, Nat.mod_eq_of_lt (hlt.trans s.b.isLt)]

theorem divide_cy {s : State} (hs : s.laidOut = true) : (divide s).cy = false :=
  (State.cy_setOv (by exact hs) _).trans (State.cy_setCy ..)

/-- ov tells whether the remainder is zero, as b itself does. -/
theorem divide_ov {s : State} (hs : s.laidOut = true) (hb : s.b ≠ 0) :
    (divide s).ov = decide ((divide s).b = 0) := by
  have hov : (divide s).ov = decide (s.accC % s.b.toNat = 0) := State.ov_setOv ..
  rw [hov, ← divide_remainder hs hb, decide_eq_decide, ← BitVec.toNat_inj]
  rfl

end Sys2Proof.Machine

namespace Sys2Proof.Proofs

open Sys2Proof.Machine Sys2Proof.Claims

/-- Settles O14: the product has 24 bits, so the three registers hold all of it. -/
theorem mulGives24BitProduct : Obligations.MulGives24BitProduct := by
  intro s hs
  have hpsw := pswKeeps_of_exec_mul (bits := [s.params.bitCy.toNat, s.params.bitOv.toNat]) hs (exec_mul s)
    (by simp) (by simp)
  exact ⟨⟨rfl, rfl⟩, _, exec_mul s, multiply_product hs, multiply_cy hs, multiply_ov s,
    hpsw.ac_eq rfl (State.bitAc_not_mem_cy_ov hs), hpsw, .advance rfl rfl, keeps_of_exec_mul (exec_mul s)⟩

/-- Settles O15: quotient and remainder fit their registers, and are those of the division with remainder. -/
theorem divGivesQuotientAndRemainder : Obligations.DivGivesQuotientAndRemainder := by
  intro s hs hb
  have hpsw := divide_pswKeeps (bits := [s.params.bitCy.toNat, s.params.bitOv.toNat]) hs (by simp) (by simp)
  have hdivision : (s.acc ++ s.c).toNat =
      ((divide s).acc ++ (divide s).c).toNat * s.b.toNat + (divide s).b.toNat := by
    rw [divide_quotient hs, divide_remainder hs hb]
    exact (Nat.div_add_mod' ..).symm
  have hlt : (divide s).b.toNat < s.b.toNat := by
    rw [divide_remainder hs hb]
    exact Nat.mod_lt _ (State.b_toNat_pos hb)
  exact ⟨_, exec_div_of_b_ne_zero hb, hdivision, hlt, divide_cy hs, divide_ov hs hb,
    hpsw.ac_eq rfl (State.bitAc_not_mem_cy_ov hs), hpsw, .advance rfl rfl, (divide_keeps s).advance 1⟩

end Sys2Proof.Proofs
end

section
/-! Frames of two instructions in a row, and of a chain of flag writes that gives cy its value back. -/

namespace Sys2Proof.Claims

open Sys2Proof.Machine

theorem Keeps.trans {cells : List DataAddr} {s t u : State} (hst : Keeps cells s t) (htu : Keeps cells t u) :
    Keeps cells s u := by
  obtain ⟨⟨⟨hcell, hphys⟩, hrom, hpar, hdev, hsrc, hreq⟩, hhold⟩ := hst
  obtain ⟨⟨⟨hcell', hphys'⟩, hrom', hpar', hdev', hsrc', hreq'⟩, hhold'⟩ := htu
  exact ⟨⟨⟨fun a ha => (hcell' a ha).trans (hcell a ha), fun p hp => (hphys' p hp).trans (hphys p hp)⟩,
    fun a => (hrom' a).trans (hrom a), hpar'.trans hpar, hdev'.trans hdev, hsrc'.trans hsrc, hreq'.trans hreq⟩,
    hhold'.trans hhold⟩

theorem Keeps.params_eq {cells : List DataAddr} {s t : State} (h : Keeps cells s t) : t.params = s.params := by
  obtain ⟨⟨-, -, hparams, -⟩, -⟩ := h
  exact hparams

theorem PswKeeps.trans {bits : List Nat} {s t u : State} (hst : PswKeeps bits s t) (htu : PswKeeps bits t u) :
    PswKeeps bits s u := fun n hn => (htu n hn).trans (hst n hn)

/-- ov stays where its bit is not among those written. -/
theorem PswKeeps.ov_eq {bits : List Nat} {s t : State} (h : PswKeeps bits s t) (hp : t.params = s.params)
    (hb : s.params.bitOv.toNat ∉ bits) : t.ov = s.ov := by
  simp only [State.ov, hp, h _ hb]

/-- Where only cy is written and cy is what it was, the whole of psw is. -/
theorem PswKeeps.psw_eq_of_cy_eq {s t : State} (h : PswKeeps [s.params.bitCy.toNat] s t)
    (hp : t.params = s.params) (hcy : t.cy = s.cy) : t.psw = s.psw := by
  refine BitVec.eq_of_getLsbD_eq fun n _ => ?_
  by_cases hn : n = s.params.bitCy.toNat
  · rw [State.cy, State.cy, hp] at hcy
    rw [hn, hcy]
  · exact h n (mt List.mem_singleton.mp hn)

end Sys2Proof.Claims
end

section
/-! and, or and xor (R150, R151, R152). -/

namespace Sys2Proof.Machine

open Sys2Proof.Claims

/-- An instruction that writes acc and nothing else of the data space, so no flag. -/
theorem exec_of_setAcc {i : Instr} {s : State} {v : Byte}
    (h : exec i s = .next ((s.setAcc v).advance i.length)) :
    ∃ t, exec i s = .next t ∧ t.acc = v ∧ PcAdvances i s t ∧ Keeps [s.params.addrAcc] s t :=
  ⟨_, h, State.cell_setCell_self .., .advance rfl rfl,
    ((Keeps.refl _ s).setCell v (List.mem_singleton_self _)).advance _⟩

/-- A mnemonic whose forms combine acc with their operand writes the combination to acc. -/
theorem exec_of_logicOp {imm : Byte → Instr} {dir : DataAddr → Instr} {ind : BitVec 2 → Instr} {s : State}
    {i : Instr} {v : Byte} (f : Byte → Byte → Byte) (hs : s.laidOut = true) (hform : SrcForm imm dir ind s i v)
    (himm : ∀ i8, exec (imm i8) s = logicOp f (srcImm i8) (imm i8).length s)
    (hdir : ∀ d9, exec (dir d9) s = logicOp f (srcDir d9 s) (dir d9).length s)
    (hind : ∀ r, exec (ind r) s = logicOp f (srcInd r s) (ind r).length s) :
    ∃ t, exec i s = .next t ∧ t.acc = f s.acc v ∧ PcAdvances i s t ∧ Keeps [s.params.addrAcc] s t := by
  have hexec : exec i s = logicOp f (.next v) i.length s :=
    hform.exec_eq hs (op := fun src len => logicOp f src len s) himm hdir hind
  exact exec_of_setAcc (hexec.trans (logicOp_eq_next.mpr ⟨v, rfl, rfl⟩))

end Sys2Proof.Machine

namespace Sys2Proof.Proofs

open Sys2Proof.Machine Sys2Proof.Claims

/-- Settles O17: each form combines acc with its operand's value, and the combination is bit by bit. -/
theorem andOrXor : Obligations.AndOrXor := by
  intro s i v f hs hform
  obtain ⟨hand, rfl⟩ | ⟨hor, rfl⟩ | ⟨hxor, rfl⟩ := hform
  · obtain ⟨t, h, hacc, hframe⟩ :=
      exec_of_logicOp (· &&& ·) hs hand (fun _ => rfl) (fun _ => rfl) fun _ => rfl
    exact ⟨t, h, fun n _ => by rw [hacc, BitVec.getLsbD_and], hframe⟩
  · obtain ⟨t, h, hacc, hframe⟩ :=
      exec_of_logicOp (· ||| ·) hs hor (fun _ => rfl) (fun _ => rfl) fun _ => rfl
    exact ⟨t, h, fun n _ => by rw [hacc, BitVec.getLsbD_or], hframe⟩
  · obtain ⟨t, h, hacc, hframe⟩ :=
      exec_of_logicOp (· ^^^ ·) hs hxor (fun _ => rfl) (fun _ => rfl) fun _ => rfl
    exact ⟨t, h, fun n _ => by rw [hacc, BitVec.getLsbD_xor], hframe⟩

end Sys2Proof.Proofs
end

section
/-! The rotates (R153 to R156): rol and ror are rolc and rorc with the bit that wraps around in the place of cy. -/

namespace Sys2Proof.Machine

open Sys2Proof.Claims

/-! The shifted byte, bit by bit -/

section
variable (a : Byte) (k : Bool)

theorem getLsbD_shiftInLow (n : Nat) :
    (shiftInLow a k).getLsbD n =
      if n < 1 then (BitVec.ofBool k).getLsbD n else (a.extractLsb' 0 7).getLsbD (n - 1) :=
  BitVec.getLsbD_append

theorem getLsbD_shiftInHigh (n : Nat) :
    (shiftInHigh a k).getLsbD n =
      if n < 7 then (a.extractLsb' 1 7).getLsbD n else (BitVec.ofBool k).getLsbD (n - 7) :=
  BitVec.getLsbD_append

theorem getLsbD_shiftInLow_zero : (shiftInLow a k).getLsbD 0 = k := by
  rw [getLsbD_shiftInLow, if_pos Nat.one_pos, BitVec.getLsbD_ofBool]
  simp

theorem getLsbD_shiftInLow_succ {n : Nat} (hn : n < 7) : (shiftInLow a k).getLsbD (n + 1) = a.getLsbD n := by
  simp [getLsbD_shiftInLow, hn]

theorem getLsbD_shiftInHigh_seven : (shiftInHigh a k).getLsbD 7 = k := by
  rw [getLsbD_shiftInHigh, if_neg (lt_irrefl 7), BitVec.getLsbD_ofBool]
  simp

theorem getLsbD_shiftInHigh_of_lt {n : Nat} (hn : n < 7) : (shiftInHigh a k).getLsbD n = a.getLsbD (n + 1) := by
  simp [getLsbD_shiftInHigh, hn, Nat.add_comm]

/-- A shift to the right, with the bit that a shift to the left lost, undoes it. -/
theorem shiftInHigh_shiftInLow : shiftInHigh (shiftInLow a k) (a.getLsbD 7) = a := by
  refine BitVec.eq_of_getLsbD_eq fun n hn => ?_
  obtain hlt | rfl := Nat.lt_succ_iff_lt_or_eq.mp hn
  · rw [getLsbD_shiftInHigh_of_lt _ _ hlt, getLsbD_shiftInLow_succ _ _ hlt]
  · exact getLsbD_shiftInHigh_seven ..

/-- Every bit moves one place up, the top one around to the bottom (R153). -/
theorem getLsbD_rotateUp {n : Nat} (hn : n < 8) :
    (shiftInLow a (a.getLsbD 7)).getLsbD ((n + 1) % 8) = a.getLsbD n := by
  obtain hlt | rfl := Nat.lt_succ_iff_lt_or_eq.mp hn
  · rw [Nat.mod_eq_of_lt (Nat.succ_lt_succ hlt), getLsbD_shiftInLow_succ _ _ hlt]
  · exact getLsbD_shiftInLow_zero ..

/-- Every bit moves one place down, the bottom one around to the top (R155). -/
theorem getLsbD_rotateDown {n : Nat} (hn : n < 8) :
    (shiftInHigh a (a.getLsbD 0)).getLsbD n = a.getLsbD ((n + 1) % 8) := by
  obtain hlt | rfl := Nat.lt_succ_iff_lt_or_eq.mp hn
  · rw [Nat.mod_eq_of_lt (Nat.succ_lt_succ hlt), getLsbD_shiftInHigh_of_lt _ _ hlt]
  · exact getLsbD_shiftInHigh_seven ..

end

/-! The instructions -/

theorem exec_rol (s : State) :
    ∃ t, exec .rol s = .next t ∧ t.acc = shiftInLow s.acc (s.acc.getLsbD 7) ∧ PcAdvances .rol s t ∧
      Keeps [s.params.addrAcc] s t := exec_of_setAcc rfl

theorem exec_ror (s : State) :
    ∃ t, exec .ror s = .next t ∧ t.acc = shiftInHigh s.acc (s.acc.getLsbD 0) ∧ PcAdvances .ror s t ∧
      Keeps [s.params.addrAcc] s t := exec_of_setAcc rfl

/-- A write of cy does not reach acc. -/
theorem State.acc_setAcc_setCy {s : State} (hs : s.laidOut = true) (v : Byte) (c : Bool) :
    ((s.setAcc v).setCy c).acc = v := by
  obtain ⟨⟨haccPsw, -⟩, -⟩ := State.registers_ne_of_laidOut hs
  simp [State.acc_eq, State.cell_setCy, State.cell_setAcc, haccPsw]

/-- An instruction that writes acc and cy and nothing else of the data space. -/
theorem exec_of_setAcc_setCy {i : Instr} {s : State} {v : Byte} {c : Bool} (hs : s.laidOut = true)
    (h : exec i s = .next (((s.setAcc v).setCy c).advance i.length)) :
    ∃ t, exec i s = .next t ∧ t.acc = v ∧ t.cy = c ∧ PswKeeps [s.params.bitCy.toNat] s t ∧
      PcAdvances i s t ∧ Keeps [s.params.addrAcc, s.params.addrPsw] s t :=
  ⟨_, h, State.acc_setAcc_setCy hs v c, State.cy_setCy .., pswKeeps_setAcc_setCy hs v c (List.mem_singleton_self _),
    .advance rfl rfl, (((Keeps.refl _ s).setCell v (by simp)).setCell _ (by simp)).advance _⟩

theorem exec_rolc {s : State} (hs : s.laidOut = true) :
    ∃ t, exec .rolc s = .next t ∧ t.acc = shiftInLow s.acc s.cy ∧ t.cy = s.acc.getLsbD 7 ∧
      PswKeeps [s.params.bitCy.toNat] s t ∧ PcAdvances .rolc s t ∧
      Keeps [s.params.addrAcc, s.params.addrPsw] s t := exec_of_setAcc_setCy hs rfl

theorem exec_rorc {s : State} (hs : s.laidOut = true) :
    ∃ t, exec .rorc s = .next t ∧ t.acc = shiftInHigh s.acc s.cy ∧ t.cy = s.acc.getLsbD 0 ∧
      PswKeeps [s.params.bitCy.toNat] s t ∧ PcAdvances .rorc s t ∧
      Keeps [s.params.addrAcc, s.params.addrPsw] s t := exec_of_setAcc_setCy hs rfl

/-- A write of cy alone leaves ac and ov. -/
theorem ac_ov_eq_of_pswKeeps_cy {s t : State} (hs : s.laidOut = true) (h : PswKeeps [s.params.bitCy.toNat] s t)
    (hp : t.params = s.params) : t.ac = s.ac ∧ t.ov = s.ov := by
  obtain ⟨hcyAc, hcyOv, -⟩ := State.flagBits_ne_of_laidOut hs
  exact ⟨h.ac_eq hp (mt List.mem_singleton.mp hcyAc.symm), h.ov_eq hp (mt List.mem_singleton.mp hcyOv.symm)⟩

/-! One rotate after the other -/

theorem exec_rol_ror (s : State) :
    ∃ t u, exec .rol s = .next t ∧ exec .ror t = .next u ∧ Keeps [] s u := by
  obtain ⟨t, ht, htacc, -, hst⟩ := exec_rol s
  obtain ⟨u, hu, huacc, -, htu⟩ := exec_ror t
  rw [hst.params_eq] at htu
  have hsu := hst.trans htu
  have hacc : u.acc = s.acc := by
    rw [huacc, htacc, getLsbD_shiftInLow_zero, shiftInHigh_shiftInLow]
  rw [State.acc_eq, State.acc_eq, hsu.params_eq] at hacc
  exact ⟨t, u, ht, hu, hsu.of_cons hacc⟩

theorem exec_rolc_rorc {s : State} (hs : s.laidOut = true) :
    ∃ t u, exec .rolc s = .next t ∧ exec .rorc t = .next u ∧ Keeps [] s u := by
  obtain ⟨t, ht, htacc, htcy, hstpsw, -, hst⟩ := exec_rolc hs
  obtain ⟨u, hu, huacc, hucy, htupsw, -, htu⟩ :=
    exec_rorc ((State.laidOut_of_params_eq hst.params_eq).trans hs)
  rw [hst.params_eq] at htupsw htu
  have hsu := hst.trans htu
  have hacc : u.acc = s.acc := by rw [huacc, htacc, htcy, shiftInHigh_shiftInLow]
  have hcy : u.cy = s.cy := by rw [hucy, htacc, getLsbD_shiftInLow_zero]
  have hpsw : u.psw = s.psw := (hstpsw.trans htupsw).psw_eq_of_cy_eq hsu.params_eq hcy
  rw [State.acc_eq, State.acc_eq, hsu.params_eq] at hacc
  rw [State.psw_eq, State.psw_eq, hsu.params_eq] at hpsw
  exact ⟨t, u, ht, hu, (hsu.of_cons hacc).of_cons hpsw⟩

end Sys2Proof.Machine

namespace Sys2Proof.Proofs

open Sys2Proof.Machine Sys2Proof.Claims

/-- Settles O18: the bit that wraps around takes the free place. -/
theorem rolAndRor : Obligations.RolAndRor := by
  intro s
  refine ⟨⟨rfl, rfl⟩, ⟨rfl, rfl⟩, ?_, ?_⟩
  · obtain ⟨t, h, hacc, hframe⟩ := exec_rol s
    exact ⟨t, h, fun n hn => hacc ▸ getLsbD_rotateUp s.acc hn, hframe⟩
  · obtain ⟨t, h, hacc, hframe⟩ := exec_ror s
    exact ⟨t, h, fun n hn => hacc ▸ getLsbD_rotateDown s.acc hn, hframe⟩

/-- Settles O19: cy takes the free place and the bit moved out goes to cy. -/
theorem rolcAndRorc : Obligations.RolcAndRorc := by
  intro s hs
  refine ⟨⟨rfl, rfl⟩, ⟨rfl, rfl⟩, ?_, ?_⟩
  · obtain ⟨t, h, hacc, hcy, hpsw, hpc, hkeeps⟩ := exec_rolc hs
    obtain ⟨hac, hov⟩ := ac_ov_eq_of_pswKeeps_cy hs hpsw hkeeps.params_eq
    exact ⟨t, h, fun n hn => hacc ▸ getLsbD_shiftInLow_succ _ _ hn, hacc ▸ getLsbD_shiftInLow_zero .., hcy, hac,
      hov, hpsw, hpc, hkeeps⟩
  · obtain ⟨t, h, hacc, hcy, hpsw, hpc, hkeeps⟩ := exec_rorc hs
    obtain ⟨hac, hov⟩ := ac_ov_eq_of_pswKeeps_cy hs hpsw hkeeps.params_eq
    exact ⟨t, h, fun n hn => hacc ▸ getLsbD_shiftInHigh_of_lt _ _ hn, hacc ▸ getLsbD_shiftInHigh_seven .., hcy,
      hac, hov, hpsw, hpc, hkeeps⟩

/-- Settles O20: the second rotate moves back the bits that the first one moved, cy among them for rorc. -/
theorem rotatesUndoEachOther : Obligations.RotatesUndoEachOther :=
  fun s => ⟨exec_rol_ror s, exec_rolc_rorc⟩

end Sys2Proof.Proofs
end

section
/-! clr1, set1 and not1 (R157, R158, R159). -/

namespace Sys2Proof.Machine

open Sys2Proof.Claims

theorem getLsbD_bitMask (b3 : BitVec 3) (n : Nat) : (bitMask b3).getLsbD n = decide (n = b3.toNat) := by
  have htwoPow : bitMask b3 = BitVec.twoPow 8 b3.toNat := rfl
  rw [htwoPow, BitVec.getLsbD_twoPow, decide_eq_true b3.isLt, Bool.true_and]
  exact decide_eq_decide.mpr eq_comm

theorem getLsbD_xor_bitMask (x : Byte) (b3 : BitVec 3) (n : Nat) :
    (x ^^^ bitMask b3).getLsbD n = if n = b3.toNat then !x.getLsbD n else x.getLsbD n := by
  rw [BitVec.getLsbD_xor, getLsbD_bitMask]
  by_cases hn : n = b3.toNat <;> simp [hn]

/-- clr1 and set1 write the named bit (R157, R158). -/
theorem and_not_bitMask_eq_setBit (x : Byte) (b3 : BitVec 3) :
    x &&& ~~~bitMask b3 = setBit x b3.toNat false := rfl

theorem or_bitMask_eq_setBit (x : Byte) (b3 : BitVec 3) : x ||| bitMask b3 = setBit x b3.toNat true := rfl

/-- An instruction that combines a cell with the mask of a bit writes that cell and no other. -/
theorem exec_of_bitOp {i : Instr} {s : State} {d9 : DataAddr} {b3 : BitVec 3} (f : Byte → Byte → Byte)
    (hs : s.laidOut = true) (hd : s.isDevice d9 = false) (hexec : exec i s = bitOp f d9 b3 s)
    (hlen : i.length = 2) :
    ∃ t, exec i s = .next t ∧ t.cell d9 = f (s.cell d9) (bitMask b3) ∧ PcAdvances i s t ∧ Keeps [d9] s t := by
  have hflat := State.bankMap_of_laidOut hs
  have h := hexec.trans (bitOp_eq_next.mpr ⟨hd, rfl⟩)
  rw [State.view_flat hflat, State.store_flat hflat] at h
  exact ⟨_, h, State.cell_setCell_self .., .advance rfl hlen, keeps_of_bitOp hs (hexec.symm.trans h)⟩

end Sys2Proof.Machine

namespace Sys2Proof.Proofs

open Sys2Proof.Machine Sys2Proof.Claims

/-- Settles O21: clr1 and set1 write the named bit as a constant, not1 its complement. -/
theorem bitInstructions : Obligations.BitInstructions := by
  intro s d9 b3
  refine ⟨⟨rfl, rfl⟩, ⟨rfl, rfl⟩, ⟨rfl, rfl⟩, fun hs hd => ⟨?_, ?_, ?_⟩⟩
  · obtain ⟨t, h, hcell, hframe⟩ := exec_of_bitOp (i := .clr1 d9 b3) (· &&& ~~~·) hs hd rfl rfl
    refine ⟨t, h, fun n _ => ?_, hframe⟩
    rw [hcell, and_not_bitMask_eq_setBit, getLsbD_setBit _ b3.isLt]
  · obtain ⟨t, h, hcell, hframe⟩ := exec_of_bitOp (i := .set1 d9 b3) (· ||| ·) hs hd rfl rfl
    refine ⟨t, h, fun n _ => ?_, hframe⟩
    rw [hcell, or_bitMask_eq_setBit, getLsbD_setBit _ b3.isLt]
  · obtain ⟨t, h, hcell, hframe⟩ := exec_of_bitOp (i := .not1 d9 b3) (· ^^^ ·) hs hd rfl rfl
    refine ⟨t, h, fun n _ => ?_, hframe⟩
    rw [hcell, getLsbD_xor_bitMask]

end Sys2Proof.Proofs
end

section
/-! ld, st, mov and xch (R180, R181, R182, R186): on a flat data space each reaches its operand's own cell. -/

namespace Sys2Proof.Machine

open Sys2Proof.Claims

section
variable {s : State} {a : DataAddr}

theorem loadOp_of_laidOut (hs : s.laidOut = true) (hd : s.isDevice a = false) (len : Nat) :
    loadOp a len s = .next ((s.setAcc (s.cell a)).advance len) := by
  rw [← State.view_flat (State.bankMap_of_laidOut hs) .read]
  exact loadOp_eq_next.mpr ⟨hd, rfl⟩

theorem storeOp_of_laidOut (hs : s.laidOut = true) (hd : s.isDevice a = false) (v : Byte) (len : Nat) :
    storeOp a v len s = .next ((s.setCell a v).advance len) := by
  rw [← State.store_flat (State.bankMap_of_laidOut hs) .write]
  exact storeOp_eq_next.mpr ⟨hd, rfl⟩

theorem exchangeOp_of_laidOut (hs : s.laidOut = true) (hd : s.isDevice a = false) (len : Nat) :
    exchangeOp a len s = .next (((s.setCell a s.acc).setAcc (s.cell a)).advance len) := by
  have hflat := State.bankMap_of_laidOut hs
  rw [← State.view_flat hflat .read, ← State.store_flat hflat .write]
  exact exchangeOp_eq_next.mpr ⟨hd, rfl⟩

end

/-- The exchange leaves acc's old byte in the cell, even where that cell is acc's own. -/
theorem State.cell_setCell_acc_setAcc (s : State) (a : DataAddr) :
    ((s.setCell a s.acc).setAcc (s.cell a)).cell a = s.acc := by
  rw [State.cell_setAcc, State.setCell_params, State.cell_setCell_self]
  split
  · next hacc => rw [hacc, State.acc_eq]
  · rfl

section
variable {dir : DataAddr → Instr} {ind : BitVec 2 → Instr} {s : State} {i : Instr} {a : DataAddr}

/-- A mnemonic whose forms load their operand's cell writes its byte to acc. -/
theorem exec_of_loadOp (hs : s.laidOut = true) (hform : LocForm dir ind s i a)
    (hdir : ∀ d9, exec (dir d9) s = loadOp (locDir d9) (dir d9).length s)
    (hind : ∀ r, exec (ind r) s = loadOp (locInd r s) (ind r).length s) :
    ∃ t, exec i s = .next t ∧ t.acc = s.cell a ∧ PcAdvances i s t ∧ Keeps [s.params.addrAcc] s t := by
  have hexec : exec i s = loadOp a i.length s := hform.exec_eq (op := fun loc len => loadOp loc len s) hdir hind
  exact exec_of_setAcc (hexec.trans (loadOp_of_laidOut hs hform.not_device i.length))

/-- A mnemonic whose forms store a byte to their operand's cell writes that cell and no other. -/
theorem exec_of_storeOp {v : Byte} (hs : s.laidOut = true) (hform : LocForm dir ind s i a)
    (hdir : ∀ d9, exec (dir d9) s = storeOp (locDir d9) v (dir d9).length s)
    (hind : ∀ r, exec (ind r) s = storeOp (locInd r s) v (ind r).length s) :
    ∃ t, exec i s = .next t ∧ t.cell a = v ∧ PcAdvances i s t ∧ Keeps [a] s t := by
  have hexec : exec i s = storeOp a v i.length s :=
    hform.exec_eq (op := fun loc len => storeOp loc v len s) hdir hind
  have h := storeOp_of_laidOut hs hform.not_device v i.length
  exact ⟨_, hexec.trans h, State.cell_setCell_self .., .advance rfl rfl, keeps_of_storeOp hs h⟩

/-- A mnemonic whose forms exchange acc and their operand's cell writes each with the other's old byte. -/
theorem exec_of_exchangeOp (hs : s.laidOut = true) (hform : LocForm dir ind s i a)
    (hdir : ∀ d9, exec (dir d9) s = exchangeOp (locDir d9) (dir d9).length s)
    (hind : ∀ r, exec (ind r) s = exchangeOp (locInd r s) (ind r).length s) :
    ∃ t, exec i s = .next t ∧ t.acc = s.cell a ∧ t.cell a = s.acc ∧ PcAdvances i s t ∧
      Keeps [a, s.params.addrAcc] s t := by
  have hexec : exec i s = exchangeOp a i.length s :=
    hform.exec_eq (op := fun loc len => exchangeOp loc len s) hdir hind
  have h := exchangeOp_of_laidOut hs hform.not_device i.length
  exact ⟨_, hexec.trans h, State.cell_setCell_self .., State.cell_setCell_acc_setAcc s a, .advance rfl rfl,
    keeps_of_exchangeOp hs h⟩

end

end Sys2Proof.Machine

namespace Sys2Proof.Proofs

open Sys2Proof.Machine Sys2Proof.Claims

/-- Settles O22: ld loads, st stores acc and xch exchanges, each at its operand's cell. -/
theorem ldStXch : Obligations.LdStXch := by
  refine ⟨fun d9 r => ⟨⟨rfl, rfl⟩, ⟨rfl, rfl⟩, ⟨rfl, rfl⟩, ⟨rfl, rfl⟩, ⟨rfl, rfl⟩, ⟨rfl, rfl⟩⟩,
    fun s i a hs => ⟨fun hld => ?_, fun hst => ?_, fun hxch => ?_⟩⟩
  · exact exec_of_loadOp hs hld (fun _ => rfl) fun _ => rfl
  · exact exec_of_storeOp hs hst (fun _ => rfl) fun _ => rfl
  · exact exec_of_exchangeOp hs hxch (fun _ => rfl) fun _ => rfl

/-- Settles O23: mov stores its constant at its operand's cell. -/
theorem movStoresConstant : Obligations.MovStoresConstant := fun _ _ =>
  ⟨fun _ => ⟨rfl, rfl⟩, fun _ => ⟨rfl, rfl⟩,
    fun _ _ hs hform => exec_of_storeOp hs hform (fun _ => rfl) fun _ => rfl⟩

end Sys2Proof.Proofs
end

section
/-! ldc (R183). -/

namespace Sys2Proof.Machine

/-- The sum's address is that of the exact number trh : trl + acc, modulo 65536 (D16). -/
theorem State.ldcAddr_eq (s : State) :
    s.ldcAddr = BitVec.ofNat 16 (256 * s.trh.toNat + s.trl.toNat + s.acc.toNat) := by
  have htr : s.tr.toNat = s.trh.toNat * 2 ^ 8 + s.trl.toNat := toNat_append_eq_add ..
  refine BitVec.eq_of_toNat_eq ?_
  rw [State.ldcAddr, BitVec.toNat_add, htr, BitVec.toNat_setWidth, BitVec.toNat_ofNat]
  omega

end Sys2Proof.Machine

namespace Sys2Proof.Proofs

open Sys2Proof.Machine Sys2Proof.Claims

/-- Settles O24: ldc writes acc and nothing else of the data space, with the ROM byte at the sum. -/
theorem ldcReadsRom : Obligations.LdcReadsRom := by
  intro s
  rw [← State.ldcAddr_eq]
  exact exec_of_setAcc rfl

end Sys2Proof.Proofs
end

section
/-! push and pop (R184, R185): push is Push of its operand's byte, and pop writes its operand before it lowers
sp. The sp cell is no operand of either (D18). -/

namespace Sys2Proof.Machine

section
variable {s t : State} {d9 : DataAddr}

/-- A cell other than sp's holds the same byte after sp is raised as before, so push is Push of that byte. -/
theorem exec_push_of_push (hs : s.laidOut = true) (hne : d9 ≠ s.params.addrSp) (hd : s.isDevice d9 = false)
    (h : push (s.cell d9) s = .next t) : exec (.push d9) s = .next (t.advance 2) := by
  obtain ⟨hstack, rfl⟩ := push_eq_next.mp h
  have hview : (s.setSp (s.sp + 1)).view .read d9 = s.cell d9 := by
    rw [State.view_flat (s := s.setSp _) (State.bankMap_of_laidOut hs), State.cell_setSp, if_neg hne]
  exact execPush_eq_next.mpr ⟨hne, hd, hstack, by rw [hview]⟩

/-- The write of a cell other than sp's does not reach sp, which is lowered after it. -/
theorem exec_pop_of_laidOut (hs : s.laidOut = true) (hne : d9 ≠ s.params.addrSp) (hd : s.isDevice d9 = false)
    (hstack : s.isDevice (stackCell s.sp) = false) :
    exec (.pop d9) s =
      .next (((s.setCell d9 (s.cell (stackCell s.sp))).setSp (s.sp - 1)).advance 2) := by
  have hflat := State.bankMap_of_laidOut hs
  have hsp : (s.setCell d9 (s.cell (stackCell s.sp))).sp = s.sp := State.cell_setCell_ne s hne.symm _
  refine execPop_eq_next.mpr ⟨hne, hstack, hd, ?_⟩
  rw [State.view_flat hflat, State.store_flat hflat, hsp]

end

end Sys2Proof.Machine

namespace Sys2Proof.Proofs

open Sys2Proof.Machine Sys2Proof.Claims

/-- Settles O25: what Push does with the operand's byte. -/
theorem pushCopiesToStack : Obligations.PushCopiesToStack := by
  intro s d9 hs hne hd hstack
  obtain ⟨t, h⟩ : ∃ t, push (s.cell d9) s = .next t := ⟨_, (push_eq_next_of_laidOut hs).mpr ⟨hstack, rfl⟩⟩
  have hsp : t.sp.toNat = (s.sp.toNat + 1) % 256 := by simp [sp_of_push hs h, BitVec.toNat_add]
  exact ⟨_, exec_push_of_push hs hne hd h, hsp, (cell_of_push hs h :), .advance (pc_of_push h) rfl,
    (keeps_of_push hs h).advance 2⟩

/-- Settles O26: the operand's cell and sp's are two cells, so each holds what was written to it. -/
theorem popCopiesFromStack : Obligations.PopCopiesFromStack := by
  intro s d9 hs hne hd hstack
  have h := exec_pop_of_laidOut hs hne hd hstack
  refine ⟨_, h, ?_, ?_, .advance rfl rfl, keeps_of_execPop hs h⟩
  · rw [State.advance_cell, State.cell_setSp, State.setCell_params, if_neg hne, State.cell_setCell_self]
  · refine (congrArg BitVec.toNat (State.sp_setSp _ (s.sp - 1))).trans ?_
    simp [BitVec.toNat_sub, Nat.add_comm]

/-- Settles O27: push and pop look at their operand's address first (D18). -/
theorem pushAndPopOfSpCell : Obligations.PushAndPopOfSpCell := fun s => ⟨execPush_sp s, execPop_sp s⟩

end Sys2Proof.Proofs
end

section
/-! ldf and stf (R187, R188; D17). -/

namespace Sys2Proof.Proofs

/-- Settles O28: the meaning of either is its refusal, whatever the state is. -/
theorem flashInstructionsRefused : Obligations.FlashInstructionsRefused := fun _ => ⟨rfl, rfl⟩

end Sys2Proof.Proofs
end

section
/-! Jumps: the address after an instruction (R31) and the three targets computed from it (R102, R104, R105), as
numbers. -/

namespace Sys2Proof.Machine

theorem State.next_toNat (s : State) (len : Nat) : (s.next len).toNat = (s.pc.toNat + len) % 65536 := by
  simp [State.next, BitVec.toNat_add]

/-- The high four bits of the target are the page of next, the low twelve the field (D19). -/
theorem target12_toNat (next : CodeAddr) (a12 : BitVec 12) :
    (target12 next a12).toNat = next.toNat / 4096 * 4096 + a12.toNat := by
  have happend : (target12 next a12).toNat = (next.extractLsb' 12 4).toNat * 2 ^ 12 + a12.toNat :=
    toNat_append_eq_add ..
  rw [happend, BitVec.extractLsb'_toNat, Nat.shiftRight_eq_div_pow]
  omega

/-- r8 counts as a two's-complement number (D8). -/
theorem target8_toNat (next : CodeAddr) (r8 : Byte) :
    ((target8 next r8).toNat : Int) = (next.toNat + r8.toInt) % 65536 := toNat_add_ofInt next r8.toInt

/-- Less one is plus 65535, modulo 65536. -/
theorem target16_toNat (next : CodeAddr) (r16 : BitVec 16) :
    (target16 next r16).toNat = (next.toNat + 65535 + r16.toNat) % 65536 := by
  rw [target16, BitVec.toNat_add, BitVec.toNat_sub, show (1 : CodeAddr).toNat = 1 from rfl]
  omega

/-- Every code address is in the reach of r16, and the field is its distance from next - 1 (R114). -/
theorem asmR16_of_lt (next : CodeAddr) {t : Nat} (ht : t < 65536) :
    ∃ r16, asmR16 next t = some r16 ∧ (r16.toNat : Int) = ((t : Int) - next.toNat + 1) % 65536 := by
  refine ⟨_, if_pos (decide_eq_true ht), ?_⟩
  rw [BitVec.toNat_ofInt]
  omega

end Sys2Proof.Machine

namespace Sys2Proof.Claims

open Sys2Proof.Machine

/-- A transfer that saves nothing writes only pc. -/
theorem keeps_setPc (s : State) (target : CodeAddr) : Keeps [] s (s.setPc target) :=
  (Keeps.refl [] s).setPc target

end Sys2Proof.Claims

namespace Sys2Proof.Proofs

open Sys2Proof.Machine Sys2Proof.Claims

/-- Settles O29: pc takes the targets of a12 and of r8, each computed from the address two bytes on. -/
theorem jmpAndBr : Obligations.JmpAndBr := by
  intro s a12 r8
  refine ⟨⟨_, rfl, ?_, keeps_setPc ..⟩, ⟨_, rfl, ?_, keeps_setPc ..⟩⟩
  · rw [State.setPc_pc, target12_toNat, State.next_toNat]
  · rw [State.setPc_pc, target8_toNat, State.next_toNat, ShortTarget, show (Instr.br r8).length = 2 from rfl]
    omega

/-- Settles O30: pc takes a16 itself and the target of r16, and the assembler's r16 is the distance from
the address three bytes on, less one. -/
theorem jmpfAndBrf : Obligations.JmpfAndBrf := by
  intro s a16 r16
  refine ⟨⟨rfl, rfl⟩, ⟨rfl, rfl⟩, ⟨_, rfl, rfl, keeps_setPc ..⟩, ⟨_, rfl, ?_, keeps_setPc ..⟩, fun target ht => ?_⟩
  · rw [State.setPc_pc, target16_toNat, State.next_toNat]
    omega
  · obtain ⟨field, hasm, hfield⟩ := asmR16_of_lt (s.pc + 3) ht
    exact ⟨field, congrArg (Option.map Instr.brf) hasm, hfield⟩

end Sys2Proof.Proofs
end

section
/-! The end of every conditional branch: pc takes the r8 target or the address after the instruction (R31, R104). -/

namespace Sys2Proof.Claims

open Sys2Proof.Machine

/-- r8 counts from the address after the instruction, as a two's-complement number (R104, D8). -/
theorem target8_toNat_eq_shortTarget (i : Instr) (r8 : Byte) (s : State) :
    ((target8 (s.next i.length) r8).toNat : Int) = ShortTarget i r8 s := by
  rw [target8_toNat, State.next_toNat, ShortTarget]
  omega

/-- A branch ends at the pc its condition says, where the instruction has not moved pc before. -/
theorem Branches.branch {c : Bool} {i : Instr} {r8 : Byte} {s t : State} {n : Nat} (hpc : t.pc = s.pc)
    (hlen : i.length = n) : Branches c i r8 s (t.branch c n r8) := by
  have hnext : t.next n = s.next i.length := by rw [State.next, State.next, hpc, hlen]
  cases c
  · rw [Branches, if_neg Bool.false_ne_true, PcAdvances, State.branch_pc, if_neg Bool.false_ne_true, hnext,
      State.next_toNat]
  · rw [Branches, if_pos rfl, State.branch_pc, if_pos rfl, hnext, target8_toNat_eq_shortTarget]

end Sys2Proof.Claims
end

section
/-! bz and bnz (R220, R221). -/

namespace Sys2Proof.Machine

open Sys2Proof.Claims

/-- An instruction that only branches writes only pc. -/
theorem exec_of_branch {i : Instr} {s : State} {c : Bool} {r8 : Byte}
    (h : exec i s = .next (s.branch c i.length r8)) :
    ∃ t, exec i s = .next t ∧ Branches c i r8 s t ∧ Keeps [] s t :=
  ⟨_, h, .branch rfl rfl, (Keeps.refl [] s).branch ..⟩

end Sys2Proof.Machine

namespace Sys2Proof.Proofs

open Sys2Proof.Machine Sys2Proof.Claims

/-- Settles O31: either only branches, bz on acc being zero and bnz on the contrary. -/
theorem bzAndBnz : Obligations.BzAndBnz := fun _ _ => ⟨exec_of_branch rfl, exec_of_branch rfl⟩

end Sys2Proof.Proofs
end

section
/-! bp, bn and bpc (R222, R224, R223). -/

namespace Sys2Proof.Machine

open Sys2Proof.Claims

section
variable {s : State} {d9 : DataAddr} {b3 : BitVec 3} {r8 : Byte}

/-- On a flat data space bp and bn only branch, on a bit of the cell at d9 itself. -/
theorem bitBranchOp_of_laidOut (hs : s.laidOut = true) (hd : s.isDevice d9 = false) (want : Bool) :
    bitBranchOp want d9 b3 r8 s = .next (s.branch ((s.cell d9).getLsbD b3.toNat == want) 3 r8) := by
  rw [← State.view_flat (State.bankMap_of_laidOut hs) .read]
  exact bitBranchOp_eq_next.mpr ⟨hd, rfl⟩

/-- Where the bit is 1, bpc clears it and branches. -/
theorem exec_bpc_of_bit_set (hs : s.laidOut = true) (hd : s.isDevice d9 = false)
    (hbit : (s.cell d9).getLsbD b3.toNat = true) :
    exec (.bpc d9 b3 r8) s = .next ((s.setCell d9 (setBit (s.cell d9) b3.toNat false)).branch true 3 r8) := by
  have hflat := State.bankMap_of_laidOut hs
  refine execBpc_eq_next.mpr ⟨hd, ?_⟩
  rw [State.view_flat hflat, State.store_flat hflat, if_pos hbit, and_not_bitMask_eq_setBit]

/-- Where the bit is 0, bpc writes no cell and goes on (D30). -/
theorem exec_bpc_of_bit_clear (hs : s.laidOut = true) (hd : s.isDevice d9 = false)
    (hbit : (s.cell d9).getLsbD b3.toNat = false) :
    exec (.bpc d9 b3 r8) s = .next (s.branch false 3 r8) := by
  refine execBpc_eq_next.mpr ⟨hd, ?_⟩
  rw [State.view_flat (State.bankMap_of_laidOut hs), hbit, if_neg Bool.false_ne_true]

end

end Sys2Proof.Machine

namespace Sys2Proof.Proofs

open Sys2Proof.Machine Sys2Proof.Claims

/-- Settles O32: bp wants the bit 1 and bn wants it 0, and either only branches. -/
theorem bpAndBn : Obligations.BpAndBn := by
  intro s d9 b3 r8 hs hd
  refine ⟨exec_of_branch ?_, exec_of_branch ?_⟩
  · rw [← beq_true ((s.cell d9).getLsbD b3.toNat)]
    exact bitBranchOp_of_laidOut hs hd true
  · rw [← beq_false ((s.cell d9).getLsbD b3.toNat)]
    exact bitBranchOp_of_laidOut hs hd false

/-- Settles O33, by cases on the bit: only a set bit is written, and a clear one has the value it would get. -/
theorem bpcClearsAndBranches : Obligations.BpcClearsAndBranches := by
  intro s d9 b3 r8 hs hd
  cases hbit : (s.cell d9).getLsbD b3.toNat
  case true =>
    refine ⟨_, exec_bpc_of_bit_set hs hd hbit, .branch rfl rfl, fun n _ => ?_, nofun,
      ((Keeps.refl [d9] s).setCell _ (List.mem_singleton_self d9)).branch ..⟩
    rw [State.branch_cell, State.cell_setCell_self, getLsbD_setBit _ b3.isLt]
  case false =>
    refine ⟨_, exec_bpc_of_bit_clear hs hd hbit, .branch rfl rfl, fun n _ => ?_,
      fun _ => (Keeps.refl [] s).branch .., (Keeps.refl [d9] s).branch ..⟩
    rw [State.branch_cell]
    split
    · next hn => rw [hn, hbit]
    · rfl

end Sys2Proof.Proofs
end

section
/-! dbnz (R225). -/

namespace Sys2Proof.Machine

/-- On a flat data space dbnz reads and writes back the cell at its own address. -/
theorem decBranchOp_of_laidOut {s : State} {a : DataAddr} (hs : s.laidOut = true) (hd : s.isDevice a = false)
    (len : Nat) (r8 : Byte) :
    decBranchOp a len r8 s =
      .next ((s.setCell a (s.cell a - 1)).branch (decide (s.cell a - 1 ≠ 0)) len r8) := by
  have hflat := State.bankMap_of_laidOut hs
  rw [← State.view_flat hflat .read, ← State.store_flat hflat .write]
  exact decBranchOp_eq_next.mpr ⟨hd, rfl⟩

theorem toNat_sub_one (x : Byte) : (x - 1).toNat = (x.toNat + 255) % 256 := by
  simp [BitVec.toNat_sub, Nat.add_comm]

/-- Only a cell that holds 1 is zero once decremented. -/
theorem sub_one_ne_zero_iff_toNat (x : Byte) : x - 1 ≠ 0 ↔ x.toNat ≠ 1 :=
  sub_ne_zero.trans BitVec.toNat_inj.not.symm

end Sys2Proof.Machine

namespace Sys2Proof.Proofs

open Sys2Proof.Machine Sys2Proof.Claims

/-- Settles O34: either form decrements its operand's cell, and branches on what it wrote there. -/
theorem dbnzDecrementsAndBranches : Obligations.DbnzDecrementsAndBranches := by
  intro s i a r8 hs hform
  have hexec : exec i s = decBranchOp a i.length r8 s :=
    hform.exec_eq (op := fun loc len => decBranchOp loc len r8 s) (fun _ => rfl) fun _ => rfl
  have h := decBranchOp_of_laidOut hs hform.not_device i.length r8
  rw [decide_eq_decide.mpr (sub_one_ne_zero_iff_toNat (s.cell a))] at h
  refine ⟨_, hexec.trans h, ?_, .branch rfl rfl, keeps_of_decBranchOp hs h⟩
  rw [State.branch_cell, State.cell_setCell_self, toNat_sub_one]

end Sys2Proof.Proofs
end

section
/-! be and bne (R226, R227). -/

namespace Sys2Proof.Claims

open Sys2Proof.Machine

section
variable {be : Bool} {r8 : Byte} {s : State} {i : Instr} {left right : Byte}

theorem CompareForm.length_eq (h : CompareForm be r8 s i left right) : i.length = 3 := by
  obtain ⟨rfl, -⟩ | ⟨d9, rfl, -⟩ | ⟨r, rfl, -⟩ := h <;> cases be <;> rfl

/-- Every form of be and bne compares the values of its two operands (R73). -/
theorem CompareForm.exec_eq (h : CompareForm be r8 s i left right) (hs : s.laidOut = true) :
    exec i s = compareBranchOp be (.next left) (.next right) r8 s := by
  obtain ⟨rfl, rfl⟩ | ⟨d9, rfl, hd, rfl, rfl⟩ | ⟨r, rfl, hd, rfl⟩ := h
  · cases be <;> rfl
  · rw [← memRead_of_laidOut hs hd]
    cases be <;> rfl
  · rw [← memRead_of_laidOut hs hd]
    cases be <;> rfl

end

end Sys2Proof.Claims

namespace Sys2Proof.Proofs

open Sys2Proof.Machine Sys2Proof.Claims

/-- Settles O35: each form writes cy and branches, both on the comparison of its operands' values. -/
theorem beAndBne : Obligations.BeAndBne := by
  intro be s i left right r8 hs hform
  have h : compareBranchOp be (.next left) (.next right) r8 s =
      .next ((s.setCy (compareCy left right)).branch (decide (left = right) == be) 3 r8) := rfl
  have hpsw := pswKeeps_of_compareBranchOp h (List.mem_singleton_self _)
  obtain ⟨hac, hov⟩ := ac_ov_eq_of_pswKeeps_cy hs hpsw rfl
  exact ⟨_, (hform.exec_eq hs).trans h, State.cy_setCy .., hac, hov, .branch rfl hform.length_eq, hpsw,
    keeps_of_compareBranchOp h⟩

end Sys2Proof.Proofs
end

section
/-! The stack under a return address (R60, R255), where the data space is flat: its two bytes land in two cells
above sp, and a Pop of an address right after gives it back. -/

namespace Sys2Proof.Claims

open Sys2Proof.Machine

theorem Keeps.mono {cells cells' : List DataAddr} {s t : State} (h : Keeps cells s t) (hsub : cells ⊆ cells') :
    Keeps cells' s t := by
  obtain ⟨⟨⟨hcell, hphys⟩, hrun⟩, hhold⟩ := h
  exact ⟨⟨⟨fun a ha => hcell a (mt (@hsub a) ha), hphys⟩, hrun⟩, hhold⟩

theorem Keeps.cell_eq {cells : List DataAddr} {s t : State} (h : Keeps cells s t) {a : DataAddr}
    (ha : a ∉ cells) : t.cell a = s.cell a := by
  obtain ⟨⟨⟨hcell, -⟩, -⟩, -⟩ := h
  exact hcell a ha

theorem Keeps.laidOut_eq {cells : List DataAddr} {s t : State} (h : Keeps cells s t) : t.laidOut = s.laidOut :=
  State.laidOut_of_params_eq h.params_eq

theorem Keeps.isDevice_eq {cells : List DataAddr} {s t : State} (h : Keeps cells s t) :
    t.isDevice = s.isDevice := by
  obtain ⟨⟨-, -, -, hdev, -⟩, -⟩ := h
  unfold State.isDevice
  rw [hdev]

end Sys2Proof.Claims

namespace Sys2Proof.Machine

open Sys2Proof.Claims

/-- A code address is its high byte above its low byte. -/
theorem extractLsb'_high_append_low (a : CodeAddr) : a.extractLsb' 8 8 ++ a.extractLsb' 0 8 = a := by
  rw [BitVec.extractLsb'_append_extractLsb'_eq_extractLsb' (show 8 = 0 + 8 from rfl)]
  exact BitVec.extractLsb'_eq_self

theorem add_one_add_one (sp : Byte) : sp + 1 + 1 = sp + 2 := BitVec.add_assoc ..

theorem add_two_sub_one (sp : Byte) : sp + 2 - 1 = sp + 1 := by
  rw [← add_one_add_one, BitVec.add_sub_cancel]

section
variable {s t : State} {a : CodeAddr}

theorem laidOut_of_push {v : Byte} (hs : s.laidOut = true) (h : push v s = .next t) : t.laidOut = true :=
  (keeps_of_push hs h).laidOut_eq.trans hs

theorem pushAddr_of_canPushTwo (hs : s.laidOut = true) (hd : CanPushTwo s) (a : CodeAddr) :
    ∃ t, pushAddr a s = .next t := by
  obtain ⟨hlo, hhi⟩ := hd
  exact ⟨_, (pushAddr_eq_next hs).mpr ⟨hlo, by rw [add_one_add_one, hhi], rfl⟩⟩

theorem sp_of_pushAddr (hs : s.laidOut = true) (h : pushAddr a s = .next t) : t.sp = s.sp + 2 := by
  obtain ⟨s1, hlo, hhi⟩ := andThen_eq_next.mp h
  rw [sp_of_push (laidOut_of_push hs hlo) hhi, sp_of_push hs hlo, add_one_add_one]

/-- The second Push writes the cell above the first one's, and sp, which is no stack cell. -/
theorem cells_of_pushAddr (hs : s.laidOut = true) (h : pushAddr a s = .next t) :
    t.cell (stackCell (s.sp + 2)) ++ t.cell (stackCell (s.sp + 1)) = a := by
  obtain ⟨s1, hlo, hhi⟩ := andThen_eq_next.mp h
  have hs1 := laidOut_of_push hs hlo
  have hsp1 : s1.sp + 1 = s.sp + 2 := by rw [sp_of_push hs hlo, add_one_add_one]
  have hne : stackCell (s.sp + 1) ≠ stackCell (s1.sp + 1) := fun heq =>
    absurd (stackCell_inj heq) (by rw [hsp1]; simp)
  have hlow : t.cell (stackCell (s.sp + 1)) = s1.cell (stackCell (s.sp + 1)) :=
    (keeps_of_push hs1 hhi).cell_eq <|
      List.not_mem_cons_of_ne_of_not_mem (stackCell_ne_register _ (State.sp_ge_of_laidOut hs1))
        (mt List.mem_singleton.mp hne)
  rw [hlow, cell_of_push hs hlo, ← hsp1, cell_of_push hs1 hhi, extractLsb'_high_append_low]

/-- Popping an address answers the two cells at and below sp, and lowers sp by two (R253). -/
theorem popAddr_of_canPopTwo (hs : s.laidOut = true) (hd : CanPopTwo s) :
    ∃ t, popAddr s = .next (s.cell (stackCell s.sp) ++ s.cell (stackCell (s.sp - 1)), t) ∧
      t.sp.toNat = (s.sp.toNat + 254) % 256 := by
  obtain ⟨hhi, hlo⟩ := hd
  refine ⟨_, (popAddr_eq_next hs).mpr ⟨hhi, hlo, rfl⟩, ?_⟩
  rw [State.sp_setSp, toNat_sub_one, toNat_sub_one]
  omega

end

end Sys2Proof.Machine
end

section
/-! call, callf and callr (R250, R251, R252): each pushes the address after it and goes to its target. -/

namespace Sys2Proof.Machine

open Sys2Proof.Claims

/-- Every call pushes the address after it, whatever its target is (R255). -/
theorem callOp_of_canPushTwo {s : State} (hs : s.laidOut = true) (hd : CanPushTwo s) (i : Instr)
    (target : CodeAddr) :
    ∃ t, callOp target i.length s = .next t ∧ PushesReturn i s t ∧ t.pc = target := by
  obtain ⟨s1, hpush⟩ := pushAddr_of_canPushTwo hs hd (s.next i.length)
  have hcall : callOp target i.length s = .next (s1.setPc target) := callOp_eq_next.mpr ⟨s1, hpush, rfl⟩
  have hsp : (s1.setPc target).sp = s.sp + 2 := (sp_of_pushAddr hs hpush :)
  refine ⟨_, hcall, ⟨?_, ?_, keeps_of_callOp hs hcall⟩, rfl⟩
  · rw [State.setPc_cell, State.setPc_cell, cells_of_pushAddr hs hpush, State.next_toNat]
  · rw [hsp, BitVec.toNat_add]
    rfl

end Sys2Proof.Machine

namespace Sys2Proof.Proofs

open Sys2Proof.Machine Sys2Proof.Claims

/-- Settles O36: the target is a12's, computed from the address two bytes on. -/
theorem callPushesAndJumps : Obligations.CallPushesAndJumps := by
  intro s a12 hs hd
  obtain ⟨t, hexec, hpush, hpc⟩ := callOp_of_canPushTwo hs hd (.call a12) (target12 (s.next 2) a12)
  exact ⟨t, hexec, hpush, by rw [hpc, target12_toNat, State.next_toNat]⟩

/-- Settles O37: the targets are a16 itself and r16's, computed from the address three bytes on. -/
theorem callfAndCallr : Obligations.CallfAndCallr := by
  intro s a16 r16
  refine ⟨⟨rfl, rfl⟩, ⟨rfl, rfl⟩, fun hs hd => ⟨callOp_of_canPushTwo hs hd (.callf a16) a16, ?_⟩⟩
  obtain ⟨t, hexec, hpush, hpc⟩ := callOp_of_canPushTwo hs hd (.callr r16) (target16 (s.next 3) r16)
  refine ⟨t, hexec, hpush, ?_⟩
  rw [hpc, target16_toNat, State.next_toNat]
  omega

end Sys2Proof.Proofs
end

section
/-! ret and reti (R253, R254), and ret after a call (R255). -/

namespace Sys2Proof.Machine

open Sys2Proof.Claims

section
variable {i : Instr} {s t : State}

/-- ret goes to the address it pops (R253). -/
theorem exec_ret_of_canPopTwo (hs : s.laidOut = true) (hd : CanPopTwo s) :
    ∃ t, exec .ret s = .next t ∧ t.pc = s.cell (stackCell s.sp) ++ s.cell (stackCell (s.sp - 1)) ∧
      t.sp.toNat = (s.sp.toNat + 254) % 256 ∧ Keeps [s.params.addrSp] s t := by
  obtain ⟨u, hpop, hsp⟩ := popAddr_of_canPopTwo hs hd
  have hret := execRet_eq_next.mpr ⟨_, hpop, rfl⟩
  exact ⟨_, hret, rfl, hsp, keeps_of_execRet hs hret⟩

/-- The three calls differ only in their target. -/
theorem exec_call_eq_callOp (h : (∃ a, i = .call a) ∨ (∃ a, i = .callf a) ∨ (∃ r, i = .callr r)) (s : State) :
    ∃ target, exec i s = callOp target i.length s := by
  obtain ⟨a, rfl⟩ | ⟨a, rfl⟩ | ⟨r, rfl⟩ := h
  · exact ⟨target12 (s.next 2) a, rfl⟩
  · exact ⟨a, rfl⟩
  · exact ⟨target16 (s.next 3) r, rfl⟩

theorem sp_of_pushesReturn (h : PushesReturn i s t) : t.sp = s.sp + 2 := by
  obtain ⟨-, hsp, -⟩ := h
  exact BitVec.eq_of_toNat_eq (hsp.trans (BitVec.toNat_add s.sp 2).symm)

/-- A return pops the cells that the call has pushed. -/
theorem canPopTwo_of_pushesReturn (hd : CanPushTwo s) (h : PushesReturn i s t) : CanPopTwo t := by
  obtain ⟨hlo, hhi⟩ := hd
  have hsp := sp_of_pushesReturn h
  obtain ⟨-, -, hkeeps⟩ := h
  rw [CanPopTwo, hkeeps.isDevice_eq, hsp, add_two_sub_one]
  exact ⟨hhi, hlo⟩

/-- A ret where a call has pushed its return goes there and lowers sp to where it was. -/
theorem exec_ret_of_pushesReturn (hs : s.laidOut = true) (hd : CanPushTwo s) (h : PushesReturn i s t) :
    ∃ u, exec .ret t = .next u ∧ PcAdvances i s u ∧
      Keeps [stackCell (s.sp + 1), stackCell (s.sp + 2)] s u := by
  have hsp := sp_of_pushesReturn h
  have hpop := canPopTwo_of_pushesReturn hd h
  obtain ⟨hreturn, -, hst⟩ := h
  obtain ⟨u, hexec, hpc, husp, htu⟩ := exec_ret_of_canPopTwo (hst.laidOut_eq.trans hs) hpop
  have hsu : Keeps [s.params.addrSp, stackCell (s.sp + 1), stackCell (s.sp + 2)] s u :=
    hst.trans (htu.mono (by simp [hst.params_eq]))
  have hsame : u.sp = s.sp := by bv_omega
  rw [State.sp_eq, State.sp_eq, hsu.params_eq] at hsame
  refine ⟨u, hexec, ?_, hsu.of_cons hsame⟩
  rw [PcAdvances, hpc, hsp, add_two_sub_one, hreturn]

end

end Sys2Proof.Machine

namespace Sys2Proof.Proofs

open Sys2Proof.Machine Sys2Proof.Claims

/-- Settles O38: what popping an address does, with pc at the address popped. -/
theorem retPopsPc : Obligations.RetPopsPc := fun _ => ⟨⟨rfl, rfl⟩, exec_ret_of_canPopTwo⟩

/-- Settles O39: as ret, with int_hold cleared at the end. -/
theorem retiPopsPcAndResumes : Obligations.RetiPopsPcAndResumes := by
  intro s hs hd
  obtain ⟨t, hpop, hsp⟩ := popAddr_of_canPopTwo hs hd
  have hreti := returnFromInterrupt_eq_next.mpr ⟨_, hpop, rfl⟩
  exact ⟨_, hreti, rfl, hsp, rfl, keepsCells_of_returnFromInterrupt hs hreti⟩

/-- Settles O40: what a call leaves on the stack is what ret takes from it. -/
theorem callThenRetReturns : Obligations.CallThenRetReturns := by
  intro s i hs hd hcall
  obtain ⟨target, htarget⟩ := exec_call_eq_callOp hcall s
  obtain ⟨t, hexec, hpush, -⟩ := callOp_of_canPushTwo hs hd i target
  obtain ⟨u, hret, hpc, hkeeps⟩ := exec_ret_of_pushesReturn hs hd hpush
  exact ⟨t, u, htarget.trans hexec, hret, hpc, hkeeps⟩

end Sys2Proof.Proofs
end

section
/-! nop (R270). -/

namespace Sys2Proof.Machine

/-- The whole meaning of nop is its advance over one byte, whatever the state. -/
theorem exec_nop (s : State) : exec .nop s = .next (s.advance 1) := rfl

end Sys2Proof.Machine

namespace Sys2Proof.Proofs

open Sys2Proof.Machine Sys2Proof.Claims

/-- Settles O41: nop is an advance of pc, and an advance keeps every cell, the run data and int_hold. -/
theorem nopOnlyAdvances : Obligations.NopOnlyAdvances := by
  intro s
  have hform : HasForm .nop [0x00] 1 := ⟨rfl, rfl⟩
  have hpc : PcAdvances .nop s (s.advance 1) := .advance rfl rfl
  have hkeeps : Keeps [] s (s.advance 1) := (Keeps.refl [] s).advance 1
  exact ⟨hform, _, exec_nop s, hpc, hkeeps⟩

end Sys2Proof.Proofs
end

section
/-! A step where int_hold is 1 (R285, R288). -/

namespace Sys2Proof.Machine

theorem State.accepted_of_intHold {s : State} (h : s.intHold = true) : s.accepted = none := if_pos h

theorem State.afterBoundary_of_intHold {s : State} (h : s.intHold = true) : s.afterBoundary = s := if_pos h

end Sys2Proof.Machine

namespace Sys2Proof.Proofs

open Sys2Proof.Machine

/-- Settles O44: where int_hold is 1 the agent takes nothing and holds its schedule. -/
theorem heldInterruptsWait : Obligations.HeldInterruptsWait := by
  intro s hhold
  rw [step_of_not_accepted (State.accepted_of_intHold hhold), State.afterBoundary_of_intHold hhold]

end Sys2Proof.Proofs
end

section
/-! Interrupt entry (R286), and reti right after it (R287). -/

namespace Sys2Proof.Claims

open Sys2Proof.Machine

/-- What an interrupt entry leaves in t: pc at the vector, int_hold set, the old pc pushed as a call pushes its
return address, and everything else as in s. -/
structure Enters (vector : CodeAddr) (s t : State) : Prop where
  pc : t.pc = vector
  intHold : t.intHold = true
  pushed : t.cell (stackCell (s.sp + 2)) ++ t.cell (stackCell (s.sp + 1)) = s.pc
  sp : t.sp = s.sp + 2
  frame : KeepsCells [s.params.addrSp, stackCell (s.sp + 1), stackCell (s.sp + 2)] s t

/-- A reti after an entry pops the cells that the entry has pushed. -/
theorem Enters.canPopTwo {vector : CodeAddr} {s t : State} (h : Enters vector s t)
    (hdev : t.isDevice = s.isDevice) (hd : CanPushTwo s) : CanPopTwo t := by
  obtain ⟨hlo, hhi⟩ := hd
  rw [CanPopTwo, hdev, h.sp, add_two_sub_one]
  exact ⟨hhi, hlo⟩

end Sys2Proof.Claims

namespace Sys2Proof.Machine

open Sys2Proof.Claims

section
variable {s : State}

theorem enterInterrupt_of_canPushTwo (hs : s.laidOut = true) (hd : CanPushTwo s) (vector : CodeAddr) :
    ∃ t, enterInterrupt vector s = .next t ∧ Enters vector s t := by
  obtain ⟨s1, hpush⟩ := pushAddr_of_canPushTwo hs hd s.pc
  obtain ⟨hframe, -⟩ := keeps_of_pushAddr hs hpush
  exact ⟨_, enterInterrupt_eq_next.mpr ⟨s1, hpush, rfl⟩,
    { pc := rfl, intHold := rfl, pushed := (cells_of_pushAddr hs hpush :),
      sp := (sp_of_pushAddr hs hpush :), frame := hframe }⟩

theorem State.accepted_of_request {src : IntSource} {rest : List (Option IntSource)} (hhold : s.intHold = false)
    (hreq : s.requests = some src :: rest) (hsrc : src ∈ s.intSources) : s.accepted = some src := by
  simp [State.accepted, hhold, hreq, hsrc]

theorem step_of_accepted {src : IntSource} (h : s.accepted = some src) :
    step s = enterInterrupt src.vector s.afterBoundary := by
  simp only [step, h]

end

end Sys2Proof.Machine

namespace Sys2Proof.Proofs

open Sys2Proof.Machine Sys2Proof.Claims

/-- Settles O43: the entry runs in the state whose schedule has moved on, which is otherwise s. -/
theorem stepEntersInterrupt : Obligations.StepEntersInterrupt := by
  intro s src rest hhold hreq hsrc hs hd
  have hboundary : s.afterBoundary = { s with requests := rest } := by
    rw [State.afterBoundary_eq, hhold, hreq]
    rfl
  have hstep := step_of_accepted (State.accepted_of_request hhold hreq hsrc)
  rw [hboundary] at hstep
  obtain ⟨t, henter, ht⟩ := enterInterrupt_of_canPushTwo (s := { s with requests := rest }) hs hd src.vector
  obtain ⟨hcells, hrom, hparams, hdev, hsources, hrequests⟩ := ht.frame
  have hsp : t.sp.toNat = (s.sp.toNat + 2) % 256 := (congrArg BitVec.toNat ht.sp).trans (BitVec.toNat_add s.sp 2)
  exact ⟨t, hstep.trans henter, ht.pc, ht.intHold, hrequests, ht.pushed, hsp, hcells, hrom, hparams, hdev,
    hsources⟩

/-- Settles O45: reti pops what the entry has pushed, so it writes sp back and clears the int_hold that the entry
has set. -/
theorem entryThenRetiRestores : Obligations.EntryThenRetiRestores := by
  intro s vector hhold hs hd
  obtain ⟨t, henter, ht⟩ := enterInterrupt_of_canPushTwo hs hd vector
  have hrun := runData_of_enterInterrupt henter
  have hparams := State.params_of_runData hrun
  have hpop := ht.canPopTwo (State.isDevice_of_runData hrun) hd
  obtain ⟨u, hreti, hpc, husp, huhold, hframe⟩ :=
    retiPopsPcAndResumes t ((State.laidOut_of_params_eq hparams).trans hs) hpop
  have hst : Keeps _ s (t.setIntHold s.intHold) := ⟨ht.frame, rfl⟩
  have htu : Keeps _ (t.setIntHold s.intHold) u := ⟨hframe, huhold.trans hhold.symm⟩
  have hsu := hst.trans (htu.mono (by simp [hparams]))
  have hsp : u.sp = s.sp := by
    have htsp := ht.sp
    bv_omega
  rw [State.sp_eq, State.sp_eq, hsu.params_eq] at hsp
  refine ⟨t, u, henter, ht.pc, ht.intHold, hreti, ?_, hsu.of_cons hsp⟩
  rw [hpc, ht.sp, add_two_sub_one, ht.pushed]

end Sys2Proof.Proofs
end

section
/-! Without device cells every access answers, whatever the layout of the parameters, and so does every
instruction that has a meaning (R52, R53, R282). -/

namespace Sys2Proof.Machine

/-- The operation is not refused. -/
def Answers {α : Type} (r : Host.Outcome α Fault Refusal) : Prop := ∃ x, r = .next x

theorem Answers.next {α : Type} (x : α) : Answers (.next x) := ⟨x, rfl⟩

/-- A sequence answers where each part does. -/
theorem Answers.andThen {α β : Type} {r : Host.Outcome α Fault Refusal} {k : α → Host.Outcome β Fault Refusal}
    (hr : Answers r) (hk : ∀ x, r = .next x → Answers (k x)) : Answers (Machine.andThen r k) := by
  obtain ⟨x, rfl⟩ := hr
  exact hk x rfl

/-- What is computed from an answer is an answer. -/
theorem Answers.map {α β : Type} {r : Host.Outcome α Fault Refusal} (hr : Answers r) (f : α → β) :
    Answers (Machine.andThen r fun x => .next (f x)) := hr.andThen fun x _ => .next (f x)

/-- What only a device cell refuses is not refused where there is none. -/
theorem RefusedOnlyAt.answers_of_no_device {α : Type} {s : State} {cells : List DataAddr}
    {r : Host.Outcome α Fault Refusal} (h : RefusedOnlyAt s.isDevice cells r) (hs : s.deviceCells = []) :
    Answers r := h.answers (by simp [State.isDevice, hs])

section
variable {s : State} (hs : s.deviceCells = [])
include hs

theorem answers_memRead (a : DataAddr) : Answers (memRead a s) :=
  (refusedOnlyAt_memRead a s).answers_of_no_device hs

theorem answers_memWrite (a : DataAddr) (v : Byte) : Answers (memWrite a v s) :=
  (refusedOnlyAt_memWrite a v s).answers_of_no_device hs

/-- A location is read, then written with what the instruction makes of it. -/
theorem answers_readThenWrite (a : DataAddr) (f : Byte → Byte) (g : Byte → State → State) :
    Answers (andThen (memRead a s) fun v => andThen (memWrite a (f v) s) fun t => .next (g v t)) :=
  (answers_memRead hs a).andThen fun _ _ => (answers_memWrite hs a _).map _

/-- The second byte goes to a stack cell, wherever the write of the first one has left sp. -/
theorem answers_pushAddr (a : CodeAddr) : Answers (pushAddr a s) :=
  ((refusedOnlyAt_push _ s).answers_of_no_device hs).andThen fun t hpush => by
    obtain ⟨-, hdev, -⟩ := State.runData_eq_iff.mp (runData_of_push hpush)
    exact (refusedOnlyAt_push _ t).answers_of_no_device (hdev.trans hs)

theorem answers_popAddr : Answers (popAddr s) := (refusedOnlyAt_popAddr s).answers_of_no_device hs

theorem answers_enterInterrupt (vector : CodeAddr) : Answers (enterInterrupt vector s) :=
  (answers_pushAddr hs s.pc).map _

/-- The instructions by the accesses they make: none, a read, a write, a read and a write of one location, those
of the stack. -/
theorem answers_exec {i : Instr} (hi : i ∉ [.ldf, .stf, .push s.params.addrSp, .pop s.params.addrSp]) :
    Answers (exec i s) := by
  simp only [List.mem_cons, List.not_mem_nil, or_false, not_or] at hi
  obtain ⟨hldf, hstf, hpush, hpop⟩ := hi
  unfold exec
  cases i with
  | addImm _ | addcImm _ | subImm _ | subcImm _ | andImm _ | orImm _ | xorImm _ | mul | div | rol | rolc | ror
  | rorc | ldc | jmp _ | jmpf _ | br _ | brf _ | bz _ | bnz _ | beImm _ _ | bneImm _ _ | nop => exact .next _
  | addDir _ | addInd _ | addcDir _ | addcInd _ | subDir _ | subInd _ | subcDir _ | subcInd _ | andDir _
  | andInd _ | orDir _ | orInd _ | xorDir _ | xorInd _ | ldDir _ | ldInd _ | bp _ _ _ | bn _ _ _ | beDir _ _
  | beInd _ _ _ | bneDir _ _ | bneInd _ _ _ => exact (answers_memRead hs _).map _
  | stDir _ | stInd _ | movDir _ _ | movInd _ _ => exact (answers_memWrite hs _ _).map _
  | incDir _ | incInd _ | decDir _ | decInd _ | clr1 _ _ | set1 _ _ | not1 _ _ | xchDir _ | xchInd _
  | dbnzDir _ _ | dbnzInd _ _ => exact answers_readThenWrite hs _ _ _
  | bpc d9 b3 r8 => exact (refusedOnlyAt_execBpc d9 b3 r8 s).answers_of_no_device hs
  | push d9 =>
    have hd9 : d9 ≠ s.params.addrSp := fun h => hpush (congrArg Instr.push h)
    exact (refusedOnlyAt_execPush hd9).answers_of_no_device hs
  | pop d9 =>
    have hd9 : d9 ≠ s.params.addrSp := fun h => hpop (congrArg Instr.pop h)
    exact (refusedOnlyAt_execPop hd9).answers_of_no_device hs
  | call _ | callf _ | callr _ => exact (answers_pushAddr hs _).map _
  | ret | reti => exact (answers_popAddr hs).map _
  | ldf => exact absurd rfl hldf
  | stf => exact absurd rfl hstf

end

end Sys2Proof.Machine

namespace Sys2Proof.Proofs

open Sys2Proof.Machine

/-- Settles O47: at the boundary there are still no device cells, so the entry answers, and so does the
instruction; neither changes DeviceCells. -/
theorem runsOnWithoutDevices : Obligations.RunsOnWithoutDevices := by
  intro s hs hfetch
  have hboundary : s.afterBoundary.deviceCells = [] := s.afterBoundary_deviceCells.trans hs
  have hanswers : Answers (step s) := by
    cases haccepted : s.accepted with
    | some src =>
      rw [step_of_accepted haccepted]
      exact answers_enterInterrupt hboundary src.vector
    | none =>
      rw [step_of_not_accepted haccepted]
      exact answers_exec hboundary (by rw [State.afterBoundary_params]; exact hfetch haccepted)
  obtain ⟨t, hstep⟩ := hanswers
  obtain ⟨-, -, hdev, -⟩ := stepKeepsRomAndParameters s t hstep
  exact ⟨t, hstep, hdev.trans hs⟩

end Sys2Proof.Proofs
end

section
/-! The end of a run: br to itself (R212, R320). -/

namespace Sys2Proof.Machine

/-- The offset 0xFE is minus two, the length of br. -/
theorem target8_next_two (s : State) : target8 (s.next 2) 0xFE = s.pc := by
  rw [target8, State.next, BitVec.add_assoc]
  exact BitVec.add_zero s.pc

theorem exec_br_self (s : State) : exec (.br 0xFE) s = .next s :=
  congrArg (fun a => Host.Outcome.next (s.setPc a)) (target8_next_two s)

end Sys2Proof.Machine

namespace Sys2Proof.Proofs

open Sys2Proof.Machine

/-- Settles O55: the two bytes are those of br by minus two, which goes back to where it stands. -/
theorem selfBranchIsFixedPoint : Obligations.SelfBranchIsFixedPoint := by
  intro s hb0 hb1 hreq
  have hfetch : s.fetch = .br 0xFE := by
    rw [State.fetch, hb0, hb1]
    exact decode3_eq_of_isPrefix ⟨[_], rfl⟩
  rw [step_of_requests_nil hreq, hfetch, exec_br_self]

end Sys2Proof.Proofs
end

section
/-! The memories after reset (log 2). -/

namespace Sys2Proof.Proofs

open Sys2Proof.Machine

/-- Settles O53: both memories are empty lists. -/
theorem resetMemoryForm : Obligations.ResetMemoryForm := fun p =>
  (State.wf_iff (State.resetWith p)).mpr ⟨rfl, rfl⟩

end Sys2Proof.Proofs
end

section
/-! The sample words of spec/95_test_vectors.md 2.1. -/

namespace Sys2Proof.Proofs

/-- Settles O5: each word is the encoding of its instruction, and the nop's has a byte after it. -/
theorem sampleWordsDecode : Obligations.SampleWordsDecode :=
  ⟨decode_encode_append .mul [], decode_encode_append (.addImm 0x45) [], decode_encode_append (.addDir 0x145) [],
    decode_encode_append (.subcInd 2) [], decode_encode_append (.clr1 0x101 7) [],
    decode_encode_append (.movDir 0x55 0x102) [], decode_encode_append (.movInd 0xAA 3) [],
    decode_encode_append (.jmp 0x923) [], decode_encode_append (.callf 0xFEDC) [],
    decode_encode_append (.bnz 0xFC) [], decode_encode_append (.brf 0xFDFE) [],
    decode_encode_append (.bn 0x100 0 0xED) [], decode_encode_append (.dbnzDir 0x103 0xFD) [],
    decode_encode_append (.dbnzInd 2 0xFE) [], decode_encode_append (.bneImm 0x04 0xED) [],
    decode_encode_append (.beInd 1 0x09 0x7D) [], decode_encode_append .nop [0xFF]⟩

end Sys2Proof.Proofs
end
